-- ==== Sys2Proof/Word.lean ====
section
/-! DEFINITION. The words of the engine (00_scope rules R8, R11): ADDR_WIDTH = 16, DATA_WIDTH = 8.
Every value of the engine is unsigned. -/

namespace Sys2Proof

/-- DATA_WIDTH = 8: a byte of the guest bus, of a command stream and of the settings store (R8). -/
abbrev Byte := BitVec 8

/-- ADDR_WIDTH = 16: an address of the guest bus; its addition is the spec's `+16` (R8, R11, R72). -/
abbrev Addr := BitVec 16

/-- UInt16 (R11). -/
abbrev Word16 := BitVec 16

/-- UInt32 (R11). -/
abbrev Word32 := BitVec 32

end Sys2Proof
end

