-- ==== Sys2Proof/Syntax.lean ====
section
/-! DEFINITION. The 17 commands of the engine (30_encoding rule R105), one constructor per row of
spec/opcode_table.json, with their operands at the widths of R104. -/

namespace Sys2Proof

/-- CpuArchitecture, the selected guest (10_state R24). -/
inductive Arch where
  | arch6502
  | archZ80
deriving DecidableEq, Repr

/-- ClockSpeed (10_state R25). -/
inductive Speed where
  | normal
  | fast
deriving DecidableEq, Repr

/-- The commands (30_encoding R105). The length operand N of WRT is the length of its text, and the
selector S of SARCH and SSPD is carried as the value it names (10_state R45; log 21). -/
inductive Instr where
  /-- 0x10 `WRB A, D` (41_bus_link R150). -/
  | wrb (a : Addr) (d : Byte)
  /-- 0x11 `RDB A` (41_bus_link R152). -/
  | rdb (a : Addr)
  /-- 0x20 `WRW A, D` (42_memory_facade R171). -/
  | wrw (a : Addr) (d : Word16)
  /-- 0x21 `RDW A` (42_memory_facade R175). -/
  | rdw (a : Addr)
  /-- 0x22 `WRL A, D` (42_memory_facade R173). -/
  | wrl (a : Addr) (d : Word32)
  /-- 0x23 `WRT A, T` (42_memory_facade R177). -/
  | wrt (a : Addr) (text : List Byte)
  /-- 0x24 `RDS A, N` (42_memory_facade R180). -/
  | rds (a : Addr) (n : Word16)
  /-- 0x30 `VXL A` (43_video_demux R214). -/
  | vxl (a : Addr)
  /-- 0x31 `VWRB A, D` (43_video_demux R216). -/
  | vwrb (a : Addr) (d : Byte)
  /-- 0x32 `VRDB A` (43_video_demux R218). -/
  | vrdb (a : Addr)
  /-- 0x40 `INIT` (44_cpu_lifecycle R240). -/
  | init
  /-- 0x41 `HRST` (44_cpu_lifecycle R250). -/
  | hrst
  /-- 0x42 `RUN` (44_cpu_lifecycle R260). -/
  | run
  /-- 0x43 `STOP` (44_cpu_lifecycle R270). -/
  | stop
  /-- 0x44 `SARCH S` (44_cpu_lifecycle R280). -/
  | sarch (x : Arch)
  /-- 0x45 `SSPD S` (44_cpu_lifecycle R284). -/
  | sspd (x : Speed)
  /-- 0x50 `POLL` (45_expansion_arbiter R300). -/
  | poll
deriving DecidableEq, Repr

end Sys2Proof
end

