-- ==== Sys2Proof/Config.lean ====
section
/-! DEFINITION. The implementation parameters of 00_scope rule R8 and the free values.
The OPEN parameters are "a named parameter the model takes as an argument": they are the fields of the
record Config, which State holds as part of the launch (70_reset_and_hazards R406), so a statement
about every state holds for every configuration (log 3). What the source fixes is a constant here.
Its two free values are opaque: nothing can evaluate them (log 8, log 9). The third, Config.freeMoves, stands
in Machine/Agents.lean, after the type of moves (log 27). -/

namespace Sys2Proof

/-- FRAME_ORDER, the bit order of the serial frames (30_encoding R121). -/
inductive FrameOrder where
  | msbFirst
  | lsbFirst
deriving DecidableEq, Repr

/-- MASKED_EDGE, what a doorbell edge does while IE = 0 and DOORBELL_IE = 1 (60_exceptions R366). -/
inductive MaskedEdge where
  | lost
  | deferred
  | either
deriving DecidableEq, Repr

/-- The durations that label a Delay event (00_scope R8, R10): timing only. -/
inductive Duration where
  | resetPulse
  | hrRunPulse
  | hrResetSettle
  | stopSettle
deriving DecidableEq, Repr

/-- The OPEN parameters of 00_scope rule R8. RAM_SET is given by the inclusive address ranges that are
NOT RAM, so the default, every address, is the empty list. -/
structure Config where
  frameOrder : FrameOrder
  ramHoles : List (Nat × Nat)
  videoBase : Addr
  videoBias : Word16
  videoSize : Nat
  codeLoad : Addr
  mbxOutFlag : Addr
  mbxOutData : Addr
  mbxInFlag : Addr
  mbxInData : Addr
  mbxExpData : Addr
  mbxExpFlag : Addr
  p6502ResetVec : Addr
  p6502IrqStubAddr : Addr
  p6502IrqStub : List Byte
  z80NmiStub : List Byte
  z80JpOpcode : Byte
  defaultArch : Arch
  defaultSpeed : Speed
  hasExpansion : Bool
  tickBuildEnabled : Bool
  maskedEdge : MaskedEdge
deriving DecidableEq, Repr

/-- VIDEO_ROW_WIDTH = 38 (source; R8). -/
def Config.videoRowWidth : Nat := 38

/-- VIDEO_GAP = 2 (source; R8). -/
def Config.videoGap : Word16 := 2#16

/-- EXP_FLAG_VALUE = 0x01 (source; R8). -/
def Config.expFlagValue : Byte := 0x01#8

/-- Z80_NMI_ADDR = 0x0066 (source; R8). -/
def Config.z80NmiAddr : Addr := 0x0066#16

/-- Z80_BOOT_ADDR = 0x0000 (source; R8). -/
def Config.z80BootAddr : Addr := 0x0000#16

/-- TICK_PERIOD = 20 ms (R8, R431): timing only, read by no rule. -/
def Config.tickPeriodMs : Nat := 20

/-- The durations R431 gives, in ms; `none` where the source gives no value. Timing only. -/
def Duration.millis : Duration → Option Nat
  | .resetPulse => none
  | .hrRunPulse => some 50
  | .hrResetSettle => some 50
  | .stopSettle => none

/-- The seven mailbox bytes of R9, MBX_IN_DATA counted as two. -/
def Config.mailbox (c : Config) : List Addr :=
  [c.mbxOutFlag, c.mbxOutData, c.mbxInFlag, c.mbxInData, c.mbxInData + 1#16, c.mbxExpData,
    c.mbxExpFlag]

/-- The premises the spec puts on a configuration: the seven mailbox bytes are pairwise distinct (R9),
1 ≤ VIDEO_SIZE ≤ 65536 − VIDEO_BASE, and the stubs are nonempty (R8). -/
def Config.wf (c : Config) : Bool :=
  decide (c.mailbox.Nodup) && decide (1 ≤ c.videoSize) &&
    decide (c.videoBase.toNat + c.videoSize ≤ 65536) && !c.p6502IrqStub.isEmpty &&
    !c.z80NmiStub.isEmpty

/-- The configuration TC of 95_test_vectors section 0. DESIGN CHOICE (log 3), unsafe if a claim leans
on it: the spec calls TC illustrative. -/
def Config.tc : Config where
  frameOrder := .msbFirst
  ramHoles := []
  videoBase := 0xF800#16
  videoBias := 0x0000#16
  videoSize := 0x0400
  codeLoad := 0x0800#16
  mbxOutFlag := 0x0200#16
  mbxOutData := 0x0201#16
  mbxInFlag := 0x0202#16
  mbxInData := 0x0203#16
  mbxExpData := 0x0205#16
  mbxExpFlag := 0x0206#16
  p6502ResetVec := 0xFFFC#16
  p6502IrqStubAddr := 0xFF00#16
  p6502IrqStub := [0x40#8]
  z80NmiStub := [0xED#8, 0x45#8]
  z80JpOpcode := 0xC3#8
  defaultArch := .arch6502
  defaultSpeed := .normal
  hasExpansion := true
  tickBuildEnabled := true
  maskedEdge := .either

/-- The byte the n-th read of an address outside RAM_SET draws: "any UInt8, fresh at each read"
(20_memory R71; log 8). A free value. -/
opaque Config.freeByte : Nat → Byte

/-- Whether the n-th masked doorbell edge under MASKED_EDGE = Either is deferred (60_exceptions R366;
log 9). A free value. -/
opaque Config.freeEdge : Nat → Bool

end Sys2Proof
end

