-- ==== Sys2Proof/WellFormed.lean ====
section
/-! DEFINITION. Which terms of Instr a byte stream can spell (30_encoding rules R104, R109). Every
other operand is well formed by its type: addresses and data by their width, selectors by naming one
of two values (R108). -/

namespace Sys2Proof

/-- The length operand N of WRT is a UInt16 (R101, R104). -/
def textFits (t : List Byte) : Bool := t.length < 65536

/-- No text byte of WRT is 0x00 (R104, R109). -/
def textNonzero (t : List Byte) : Bool := t.all (fun b => b != 0#8)

/-- A command the decoder can produce. -/
def Instr.wf : Instr → Bool
  | .wrb _ _ => true
  | .rdb _ => true
  | .wrw _ _ => true
  | .rdw _ => true
  | .wrl _ _ => true
  | .wrt _ t => textFits t && textNonzero t
  | .rds _ _ => true
  | .vxl _ => true
  | .vwrb _ _ => true
  | .vrdb _ => true
  | .init => true
  | .hrst => true
  | .run => true
  | .stop => true
  | .sarch _ => true
  | .sspd _ => true
  | .poll => true

end Sys2Proof
end

