-- ==== Sys2Proof/Decode.lean ====
section
/-! DEFINITION. The command encoding (30_encoding rules R100 to R111): the decoder, total on any byte
stream, the encoder, and the byte-order helpers both use. -/

namespace Sys2Proof

/-- The low byte of a 16-bit value, `v[7:0]` (R11). -/
def lowByte (v : Word16) : Byte := v.extractLsb' 0 8

/-- The high byte of a 16-bit value, `v[15:8]` (R11). -/
def highByte (v : Word16) : Byte := v.extractLsb' 8 8

/-- `{hi, lo}` (R11, R103). -/
def joinBytes (lo hi : Byte) : Word16 := hi ++ lo

/-- The low half of a 32-bit value, `v[15:0]`. -/
def lowHalf (v : Word32) : Word16 := v.extractLsb' 0 16

/-- The high half of a 32-bit value, `v[31:16]`. -/
def highHalf (v : Word32) : Word16 := v.extractLsb' 16 16

/-- `{hi, lo}` of two 16-bit values. -/
def joinHalves (lo hi : Word16) : Word32 := hi ++ lo

/-- The bytes of a 16-bit value, least significant first (R74, R103). -/
def bytes16 (v : Word16) : List Byte := [lowByte v, highByte v]

/-- The bytes of a 32-bit value, least significant first (R74, R103). -/
def bytes32 (v : Word32) : List Byte := bytes16 (lowHalf v) ++ bytes16 (highHalf v)

/-- `code(Arch)` (10_state R45). -/
def Arch.code : Arch → Byte
  | .arch6502 => 0x00#8
  | .archZ80 => 0x01#8

/-- `code(Speed)` (10_state R45). -/
def Speed.code : Speed → Byte
  | .normal => 0x00#8
  | .fast => 0x01#8

/-- `decodeArch`, defined on {0,1} only (10_state R45). -/
def Arch.ofCode (b : Byte) : Option Arch :=
  if b = 0x00#8 then some .arch6502 else if b = 0x01#8 then some .archZ80 else none

/-- `decodeSpeed`, defined on {0,1} only (10_state R45). -/
def Speed.ofCode (b : Byte) : Option Speed :=
  if b = 0x00#8 then some .normal else if b = 0x01#8 then some .fast else none

/-- Why a stream spells no command (R118). -/
inductive DecodeRefusal where
  /-- ILLEGAL_COMMAND: a reserved opcode byte (R107). -/
  | illegalCommand
  /-- BAD_OPERAND: a selector byte over 1 (R108), or a zero text byte (R109). -/
  | badOperand
  /-- TRUNCATED_STREAM: the stream ends before the command's last operand byte (R110). -/
  | truncatedStream
deriving DecidableEq, Repr

/-- What one decoding step yields (R106): a command and the rest of the stream, or one refusal. -/
inductive Decoded where
  | command (i : Instr) (rest : List Byte)
  | refuse (r : DecodeRefusal)
deriving DecidableEq, Repr

/-- Format FA: `op a_lo a_hi` (R101). -/
def decodeFA (k : Addr → Instr) : List Byte → Decoded
  | al :: ah :: rest => .command (k (joinBytes al ah)) rest
  | _ => .refuse .truncatedStream

/-- Format FAB: `op a_lo a_hi d` (R101). -/
def decodeFAB (k : Addr → Byte → Instr) : List Byte → Decoded
  | al :: ah :: d :: rest => .command (k (joinBytes al ah) d) rest
  | _ => .refuse .truncatedStream

/-- Formats FAW and FAN: `op a_lo a_hi d_lo d_hi` (R101). -/
def decodeFAW (k : Addr → Word16 → Instr) : List Byte → Decoded
  | al :: ah :: dl :: dh :: rest => .command (k (joinBytes al ah) (joinBytes dl dh)) rest
  | _ => .refuse .truncatedStream

/-- Format FAL: `op a_lo a_hi d0 d1 d2 d3` (R101). -/
def decodeFAL (k : Addr → Word32 → Instr) : List Byte → Decoded
  | al :: ah :: d0 :: d1 :: d2 :: d3 :: rest =>
    .command (k (joinBytes al ah) (joinHalves (joinBytes d0 d1) (joinBytes d2 d3))) rest
  | _ => .refuse .truncatedStream

/-- Format FANT: `op a_lo a_hi n_lo n_hi t_0 … t_(N−1)` (R101, R106). The N text bytes are taken
first, so a stream that is both short and holds a zero text byte is truncated (log 13). -/
def decodeFANT (k : Addr → List Byte → Instr) : List Byte → Decoded
  | al :: ah :: nl :: nh :: rest =>
    let n := (joinBytes nl nh).toNat
    let text := rest.take n
    if text.length < n then .refuse .truncatedStream
    else if textNonzero text then .command (k (joinBytes al ah) text) (rest.drop n)
    else .refuse .badOperand
  | _ => .refuse .truncatedStream

/-- Format FS: `op s`, with the selector read by `ofCode` (R101, R108). -/
def decodeFS {α : Type} (ofCode : Byte → Option α) (k : α → Instr) : List Byte → Decoded
  | s :: rest =>
    match ofCode s with
    | some x => .command (k x) rest
    | none => .refuse .badOperand
  | [] => .refuse .truncatedStream

/-- The opcode map (R105); every other opcode byte is reserved (R107). -/
def decodeOp (op : Byte) (rest : List Byte) : Decoded :=
  match op.toNat with
  | 0x10 => decodeFAB .wrb rest
  | 0x11 => decodeFA .rdb rest
  | 0x20 => decodeFAW .wrw rest
  | 0x21 => decodeFA .rdw rest
  | 0x22 => decodeFAL .wrl rest
  | 0x23 => decodeFANT .wrt rest
  | 0x24 => decodeFAW .rds rest
  | 0x30 => decodeFA .vxl rest
  | 0x31 => decodeFAB .vwrb rest
  | 0x32 => decodeFA .vrdb rest
  | 0x40 => .command .init rest
  | 0x41 => .command .hrst rest
  | 0x42 => .command .run rest
  | 0x43 => .command .stop rest
  | 0x44 => decodeFS Arch.ofCode .sarch rest
  | 0x45 => decodeFS Speed.ofCode .sspd rest
  | 0x50 => .command .poll rest
  | _ => .refuse .illegalCommand

/-- One decoding step (R106). The empty stream spells no command; Step asks it only of a stream that
still holds a byte. -/
def decode : List Byte → Decoded
  | op :: rest => decodeOp op rest
  | [] => .refuse .truncatedStream

/-- The words of a command (R101, R103, R105). -/
def encode : Instr → List Byte
  | .wrb a d => 0x10#8 :: (bytes16 a ++ [d])
  | .rdb a => 0x11#8 :: bytes16 a
  | .wrw a d => 0x20#8 :: (bytes16 a ++ bytes16 d)
  | .rdw a => 0x21#8 :: bytes16 a
  | .wrl a d => 0x22#8 :: (bytes16 a ++ bytes32 d)
  | .wrt a t => 0x23#8 :: (bytes16 a ++ bytes16 (BitVec.ofNat 16 t.length) ++ t)
  | .rds a n => 0x24#8 :: (bytes16 a ++ bytes16 n)
  | .vxl a => 0x30#8 :: bytes16 a
  | .vwrb a d => 0x31#8 :: (bytes16 a ++ [d])
  | .vrdb a => 0x32#8 :: bytes16 a
  | .init => [0x40#8]
  | .hrst => [0x41#8]
  | .run => [0x42#8]
  | .stop => [0x43#8]
  | .sarch x => [0x44#8, x.code]
  | .sspd x => [0x45#8, x.code]
  | .poll => [0x50#8]

/-- The length in bytes that the format column of R101 and R105 gives a command. -/
def Instr.byteLength : Instr → Nat
  | .wrb _ _ => 4
  | .rdb _ => 3
  | .wrw _ _ => 5
  | .rdw _ => 3
  | .wrl _ _ => 7
  | .wrt _ t => 5 + t.length
  | .rds _ _ => 5
  | .vxl _ => 3
  | .vwrb _ _ => 4
  | .vrdb _ => 3
  | .init => 1
  | .hrst => 1
  | .run => 1
  | .stop => 1
  | .sarch _ => 2
  | .sspd _ => 2
  | .poll => 1

/-- The first `count` bytes of a command given as a number, byte j at `w[8j+7:8j]` (R102). -/
def tableBytes (count w : Nat) : List Byte :=
  (List.range count).map (fun j => BitVec.ofNat 8 (w >>> (8 * j)))

/-- A command of the opcode table given as a number of `nbits` bits: its bytes, then the zero bytes
its operands may still take (7 bytes for the longest fixed format, and the N text bytes that
`w[39:24]` asks for; R101, R102). -/
def tableStream (nbits w : Nat) : List Byte :=
  tableBytes ((nbits + 7) / 8) w ++ List.replicate (7 + (w >>> 24) % 65536) 0x00#8

/-- The command the decoder reads from a row of the opcode table. -/
def decodeTableWord (nbits w : Nat) : Option Instr :=
  match decode (tableStream nbits w) with
  | .command i _ => some i
  | .refuse _ => none

/-- The stream that spells exactly the row's command: its own bytes and none after them; the bytes as
they stand where they spell no command. -/
def tableCommandBytes (nbits w : Nat) : List Byte :=
  match decode (tableStream nbits w) with
  | .command i _ => (tableStream nbits w).take i.byteLength
  | .refuse _ => tableStream nbits w

end Sys2Proof
end

