-- ==== Sys2Proof/Machine/State.lean ====
section
/-! DEFINITION. The state of the engine (10_state), as plain data: one field per register, line and
store the spec names, the launch inputs of 70_reset_and_hazards R406, and the model's own fields
(schedule, the host's share, draw counters, bit trace). INVENTORY.md lists every field with its rule and reset value. -/

namespace Sys2Proof.Machine

/-- CpuRunState (10_state R23). -/
inductive RunState where
  | halted
  | running
deriving DecidableEq, Repr

/-- The arbiter's position inside a handshake (10_state R34). -/
inductive ArbPhase where
  | idle
  | acked
deriving DecidableEq, Repr

/-- The data operand register D, at the width of the command's format (10_state R21). -/
inductive DataOperand where
  | byte (d : Byte)
  | word (d : Word16)
  | long (d : Word32)
deriving DecidableEq, Repr

/-- The fault codes of 60_exceptions R342. -/
inductive FaultCode where
  | notInitialised
  | reinit
  | busContention
  | archSwitchWhileRunning
  | badVideoAddr
  | linkReentry
deriving DecidableEq, Repr

/-- The output lines whose every assignment is recorded in H (10_state R49). -/
inductive Line where
  | archsel
  | speedsel
  | reset
  | busen
  | int
  | ack
deriving DecidableEq, Repr

/-- The link lines, whose changes the cycle's event stands for (10_state R49, 41_bus_link R145). -/
inductive Wire where
  | sdo
  | sclk
  | aoe
  | rwn
  | latch
deriving DecidableEq, Repr

/-- The Boolean status registers of 10_state R47 that commands assign. -/
inductive Flag where
  | tickArmed
  | doorbellLatch
  | dbPending
  | ie
  | doorbellIe
  | initialised
  | arbWasRunning
deriving DecidableEq, Repr

/-- The two bytes of the settings store (10_state R44). -/
inductive Setting where
  | architecture
  | speed
deriving DecidableEq, Repr

/-- The direction of a Bus Link cycle (10_state R49). -/
inductive Dir where
  | write
  | read
deriving DecidableEq, Repr

/-- What pulsed INT (10_state R49). -/
inductive IntSource where
  | tick
  | doorbell
deriving DecidableEq, Repr

/-- The events of the history H (10_state R49). -/
inductive Event where
  | cyc (dir : Dir) (a : Addr) (v : Byte)
  | line (l : Line) (v : Bool)
  | intPulse (src : IntSource)
  | tickFire
  | dbEdge (v : Bool)
  | req (v : Bool)
  | gWrite (a : Addr) (v : Byte)
  | xWrite (a : Addr) (v : Byte)
  | setW (i : Setting) (v : Byte)
  | delay (t : Duration)
  | fault (c : FaultCode)
deriving DecidableEq, Repr

/-- The steps the other four agents can take (60_exceptions R350): the tick timer's tick, the doorbell
interrupt's delivery of a pending edge, the expansion card's line changes and writes, and the guest's
writes. A move whose agent is not enabled is no step (log 2). -/
inductive Move where
  | tick
  | doorbellDeliver
  | cardReq (v : Bool)
  | cardDbell (v : Bool)
  | cardWrite (a : Addr) (v : Byte)
  | guestWrite (a : Addr) (v : Byte)
deriving DecidableEq, Repr

/-- The mark REFUSED(reason, CPOS) of 30_encoding R118. -/
structure RefusedMark where
  reason : DecodeRefusal
  cpos : Nat
deriving DecidableEq, Repr

/-- Guest bus memory: the bytes that differ from what an unlisted address reads as, by rising address
(log 7). -/
abbrev Memory := List Host.Cell

/-- The engine's state. -/
structure State where
  cfg : Config
  opA : Addr
  opD : DataOperand
  opN : Word16
  opS : Byte
  opT : List Byte
  q : Word16
  qbuf : List Byte
  qt : Bool
  cpos : Nat
  runstate : RunState
  arch : Arch
  speed : Speed
  tickArmed : Bool
  doorbellLatch : Bool
  dbPending : Bool
  ie : Bool
  doorbellIe : Bool
  initialised : Bool
  fault : Option FaultCode
  linkBusy : Bool
  arbPhase : ArbPhase
  arbWasRunning : Bool
  archsel : Bool
  speedsel : Bool
  resetLine : Bool
  busen : Bool
  int : Bool
  ack : Bool
  aoe : Bool
  rwn : Bool
  latch : Bool
  sclk : Bool
  sdo : Bool
  sdi : Bool
  req : Bool
  dbell : Bool
  srAddr : Addr
  srData : Byte
  mem : Memory
  setting0 : Byte
  setting1 : Byte
  hist : List Event
  stream : List Byte
  refused : Option RefusedMark
  schedule : List (List Move)
  hostShare : Option Nat
  endless : Bool
  moveDraws : Nat
  byteDraws : Nat
  edgeDraws : Nat
  frameOut : List Bool
  frameIn : List Bool
deriving DecidableEq, Repr

/-- The state at power-on (10_state R50). What R50 gives no value for, and the launch inputs, hold the
values of log 1 to log 9, log 12, log 17, log 26 and log 27. -/
def State.reset : State where
  cfg := Config.tc
  opA := 0#16
  opD := .byte 0#8
  opN := 0#16
  opS := 0#8
  opT := []
  q := 0#16
  qbuf := []
  qt := false
  cpos := 0
  runstate := .halted
  arch := .arch6502
  speed := .normal
  tickArmed := false
  doorbellLatch := false
  dbPending := false
  ie := false
  doorbellIe := false
  initialised := false
  fault := none
  linkBusy := false
  arbPhase := .idle
  arbWasRunning := false
  archsel := false
  speedsel := false
  resetLine := false
  busen := true
  int := false
  ack := false
  aoe := false
  rwn := true
  latch := false
  sclk := false
  sdo := false
  sdi := false
  req := false
  dbell := false
  srAddr := 0#16
  srData := 0#8
  mem := []
  setting0 := 0#8
  setting1 := 0#8
  hist := []
  stream := []
  refused := none
  schedule := []
  hostShare := none
  endless := false
  moveDraws := 0
  byteDraws := 0
  edgeDraws := 0
  frameOut := []
  frameIn := []

/-- Why a step of the machine stops without a next state. -/
inductive Fault where
  /-- Raised by `step` alone: FAULT holds `c`, so "the host agent has no step ever after"
  (60_exceptions R341), and the other agents' moves are used up for good. The command that raised `c`
  answered a next state with FAULT set. Safe: nothing is claimed of the machine beyond that point. -/
  | hostFaulted (c : FaultCode)
deriving DecidableEq, Repr

/-- Why a step of the machine is refused. -/
inductive Refusal where
  /-- An instruction without a meaning: raised by no arm of `exec`. Safe. -/
  | notModelled (mnemonic : String)
  /-- Raised by `step` alone: the stream was refused by the decoder with `r` (30_encoding R118), the
  state holds the mark, and the other agents' moves are used up for good. Safe. -/
  | streamRefused (r : DecodeRefusal)
deriving DecidableEq, Repr

/-- How far a command has come: its micro-steps so far gave a value and a state, or the host goes no
further in it: it ended at a `raise` (60_exceptions R341), or no further micro-step is given to the host
(R351). -/
inductive Result (α : Type) where
  | ok (x : α) (s : State)
  | stop (s : State)
deriving DecidableEq, Repr

/-- What the host finds at its position of the command stream. -/
inductive Fetched where
  /-- No command remains (70_reset_and_hazards R406). -/
  | ended
  /-- A command, and the state in which it starts: its bytes taken off the stream and its operands
  latched (10_state R21). -/
  | command (i : Instr) (s : State)
  /-- The decoder refuses (30_encoding R118). -/
  | refuse (r : DecodeRefusal)
deriving DecidableEq, Repr

end Sys2Proof.Machine
end

