-- ==== Sys2Proof/Machine/Flags.lean ====
section
/-! DEFINITION. The status of the engine: the derived predicates of 10_state R46, the Boolean status
registers of R47, and the numbers of R45 and 60_exceptions R342. The engine has no condition codes. -/

namespace Sys2Proof.Machine

/-- `ACK = 1`. The line "exists only if HAS_EXPANSION" (10_state R35): without the port it is never
asserted (log 15). -/
def State.acked (s : State) : Bool := s.cfg.hasExpansion && s.ack

/-- GuestMayAccess := (BUSEN = 1), whatever RESET is (10_state R46). -/
def State.guestMayAccess (s : State) : Bool := s.busen

/-- ExpansionOwnsBus := (ACK = 1) (10_state R46). -/
def State.expansionOwnsBus (s : State) : Bool := s.acked

/-- BusFree := (BUSEN = 0) ∧ (ACK = 0) (10_state R46). -/
def State.busFree (s : State) : Bool := !s.busen && !s.acked

/-- RUNSTATE = Running (10_state R23). -/
def State.isRunning (s : State) : Bool := s.runstate == .running

/-- An address of RAM_SET (20_memory R71). -/
def inRam (c : Config) (a : Addr) : Bool :=
  c.ramHoles.all (fun r => !(decide (r.1 ≤ a.toNat) && decide (a.toNat ≤ r.2)))

/-- The level of ARCHSEL that selects an architecture (10_state R35, R45). -/
def archLevel : Arch → Bool
  | .arch6502 => false
  | .archZ80 => true

/-- The level of SPEEDSEL that selects a speed (10_state R35, R45). -/
def speedLevel : Speed → Bool
  | .normal => false
  | .fast => true

/-- The numbers of the fault codes (60_exceptions R342). -/
def FaultCode.number : FaultCode → Nat
  | .notInitialised => 1
  | .reinit => 2
  | .busContention => 3
  | .archSwitchWhileRunning => 4
  | .badVideoAddr => 5
  | .linkReentry => 6

/-- A status register is assigned (10_state R47). -/
def State.setFlag (f : Flag) (v : Bool) (s : State) : State :=
  match f with
  | .tickArmed => { s with tickArmed := v }
  | .doorbellLatch => { s with doorbellLatch := v }
  | .dbPending => { s with dbPending := v }
  | .ie => { s with ie := v }
  | .doorbellIe => { s with doorbellIe := v }
  | .initialised => { s with initialised := v }
  | .arbWasRunning => { s with arbWasRunning := v }

/-- RUNSTATE is assigned (10_state R23). -/
def State.setRunstate (v : RunState) (s : State) : State := { s with runstate := v }

/-- ARCH is assigned (10_state R24). -/
def State.setArch (v : Arch) (s : State) : State := { s with arch := v }

/-- SPEED is assigned (10_state R25). -/
def State.setSpeed (v : Speed) (s : State) : State := { s with speed := v }

/-- ARB_PHASE is assigned (10_state R34). -/
def State.setArbPhase (v : ArbPhase) (s : State) : State := { s with arbPhase := v }

end Sys2Proof.Machine
end

