-- ==== Sys2Proof/Machine/Operands.lean ====
section
/-! DEFINITION. The operand and result registers (10_state R21), the bytes a multi-byte command stores
and where (20_memory R72, R74; 42_memory_facade R170), and the video translator (43_video_demux). -/

namespace Sys2Proof.Machine

/-- The decoder writes the command interface registers the command's format names (10_state R21). -/
def State.latchOperands (i : Instr) (s : State) : State :=
  match i with
  | .wrb a d => { s with opA := a, opD := .byte d }
  | .rdb a => { s with opA := a }
  | .wrw a d => { s with opA := a, opD := .word d }
  | .rdw a => { s with opA := a }
  | .wrl a d => { s with opA := a, opD := .long d }
  | .wrt a t => { s with opA := a, opN := BitVec.ofNat 16 t.length, opT := t }
  | .rds a n => { s with opA := a, opN := n }
  | .vxl a => { s with opA := a }
  | .vwrb a d => { s with opA := a, opD := .byte d }
  | .vrdb a => { s with opA := a }
  | .init => s
  | .hrst => s
  | .run => s
  | .stop => s
  | .sarch x => { s with opS := x.code }
  | .sspd x => { s with opS := x.code }
  | .poll => s

/-- The scalar result Q (10_state R21). -/
def State.setQ (v : Word16) (s : State) : State := { s with q := v }

/-- The string result QBUF and QT (10_state R21). -/
def State.setString (buf : List Byte) (terminated : Bool) (s : State) : State :=
  { s with qbuf := buf, qt := terminated }

/-- `zext_16` of a byte (00_scope R11). -/
def zext16 (v : Byte) : Word16 := v.setWidth 16

/-- Bytes with the addresses they go to, ascending from `a` modulo 65536 (20_memory R72, R77). -/
def bytesFrom (a : Addr) : List Byte → List (Addr × Byte)
  | [] => []
  | b :: rest => (a, b) :: bytesFrom (a + 1#16) rest

/-- `row_of(v) = (v − VIDEO_BASE) div 38`, for v in VR (43_video_demux R211). -/
def videoRow (c : Config) (v : Addr) : Nat :=
  (v.toNat - c.videoBase.toNat) / Config.videoRowWidth

/-- v ∈ VR = [VIDEO_BASE, VIDEO_BASE + VIDEO_SIZE) (43_video_demux R210). -/
def inVideoRegion (c : Config) (v : Addr) : Bool :=
  decide (c.videoBase.toNat ≤ v.toNat) && decide (v.toNat < c.videoBase.toNat + c.videoSize)

/-- `xlate(v) = v + VIDEO_BIAS + VIDEO_GAP × row_of(v) − VIDEO_GAP` modulo 65536, row 0 included
(43_video_demux R212, R213). -/
def xlate (c : Config) (v : Addr) : Addr :=
  v + c.videoBias + Config.videoGap * BitVec.ofNat 16 (videoRow c v) - Config.videoGap

end Sys2Proof.Machine
end

