-- ==== Sys2Proof/Machine/Ops.lean ====
section
/-! DEFINITION. The named operations over memory, lines, settings, history and the fault register, and
what the host finds at its position of the stream. -/

namespace Sys2Proof.Machine

/-! ### Guest bus memory (20_memory R70, R71) -/

/-- What an unlisted address reads as. DESIGN CHOICE (log 7), unsafe: R50 says any value per byte. -/
def Memory.unlisted : Byte := 0x00#8

/-- The byte a memory holds at an address. -/
def Memory.readAt : Memory → Nat → Byte
  | [], _ => Memory.unlisted
  | (k, b) :: rest, n => if k = n then b else Memory.readAt rest n

/-- A memory with no entry for an address. -/
def Memory.eraseAt : Memory → Nat → Memory
  | [], _ => []
  | (k, b) :: rest, n =>
    if k = n then Memory.eraseAt rest n else (k, b) :: Memory.eraseAt rest n

/-- A memory with an entry put in its place by rising address. -/
def Memory.insertAt : Memory → Nat → Byte → Memory
  | [], n, v => [(n, v)]
  | (k, b) :: rest, n, v =>
    if k < n then (k, b) :: Memory.insertAt rest n v else (n, v) :: (k, b) :: rest

/-- One byte stored in a memory; the canonical form is kept, so the value an unlisted address reads as
only removes the entry. -/
def Memory.writeAt (m : Memory) (n : Nat) (v : Byte) : Memory :=
  if v = Memory.unlisted then Memory.eraseAt m n else Memory.insertAt (Memory.eraseAt m n) n v

/-- Addresses strictly rising and above `lo`, within the 64 KiB space, and no entry equal to what an
unlisted address reads as. -/
def Memory.risingFrom : Nat → Memory → Bool
  | _, [] => true
  | lo, (k, b) :: rest =>
    decide (lo ≤ k) && decide (k < 65536) && (b != Memory.unlisted) && Memory.risingFrom (k + 1) rest

/-- The canonical form of a memory. -/
def Memory.wf (m : Memory) : Bool := Memory.risingFrom 0 m

/-- `Mem[a]` (00_scope R12). -/
def State.memAt (s : State) (a : Addr) : Byte := Memory.readAt s.mem a.toNat

/-- `Mem[a] <- v`, by any agent. -/
def State.setMem (a : Addr) (v : Byte) (s : State) : State :=
  { s with mem := Memory.writeAt s.mem a.toNat v }

/-! ### History, lines, settings, fault register -/

/-- `emit(e)` (00_scope R12). -/
def State.emit (e : Event) (s : State) : State := { s with hist := s.hist ++ [e] }

/-- The level of a recorded line changes. -/
def State.setLine (l : Line) (v : Bool) (s : State) : State :=
  match l with
  | .archsel => { s with archsel := v }
  | .speedsel => { s with speedsel := v }
  | .reset => { s with resetLine := v }
  | .busen => { s with busen := v }
  | .int => { s with int := v }
  | .ack => { s with ack := v }

/-- `L <- v` for a recorded line: the level changes and `Line(L, v)` is emitted in the same micro-step,
even when the level does not change (10_state R49). -/
def State.drive (l : Line) (v : Bool) (s : State) : State := (s.setLine l v).emit (.line l v)

/-- `L <- v` for a link line, which emits nothing (10_state R49). -/
def State.setWire (w : Wire) (v : Bool) (s : State) : State :=
  match w with
  | .sdo => { s with sdo := v }
  | .sclk => { s with sclk := v }
  | .aoe => { s with aoe := v }
  | .rwn => { s with rwn := v }
  | .latch => { s with latch := v }

/-- `SETTINGS[i] <- v` (10_state R44). -/
def State.setSetting (i : Setting) (v : Byte) (s : State) : State :=
  match i with
  | .architecture => { s with setting0 := v }
  | .speed => { s with setting1 := v }

/-- `delay(t)` emits Delay(t) and changes nothing else (00_scope R12; C12). -/
def State.delay (t : Duration) (s : State) : State := s.emit (.delay t)

/-- TAKING A FAULT, `raise Fault(c)`: if FAULT is none it becomes c and Fault(c) is emitted; nothing
happens if FAULT is set. The command ends there (60_exceptions R341). The engine has no handler, saves
nothing and has no return from a fault (R340). -/
def State.raise (c : FaultCode) (s : State) : State :=
  match s.fault with
  | none => { s with fault := some c }.emit (.fault c)
  | some _ => s

/-- The last micro-step of a command completes: CPOS becomes CPOS + 1 (10_state R22). -/
def State.complete (s : State) : State := { s with cpos := s.cpos + 1 }

/-- A command goes on after its micro-steps so far, or the host goes no further in it. -/
def Result.bind {α β : Type} (r : Result α) (k : α → State → Result β) : Result β :=
  match r with
  | .ok x s => k x s
  | .stop s => .stop s

/-- The end of a command. A command that ended at a raise leaves CPOS at its own position
(60_exceptions R342), and so does one whose host is given no further micro-step. -/
def Result.finish (r : Result Unit) : Host.Outcome State Fault Refusal :=
  match r with
  | .ok _ s => .next s.complete
  | .stop s => .next s

/-- A command that goes on in a later step: POLL's hold (45_expansion_arbiter R304). -/
def Result.pause (r : Result Unit) : Host.Outcome State Fault Refusal :=
  match r with
  | .ok _ s => .next s
  | .stop s => .next s

/-! ### The command stream (30_encoding R100, R118) -/

/-- The bytes of the stream not yet fetched. -/
def State.setStream (l : List Byte) (s : State) : State := { s with stream := l }

/-- What stands at the host's position of the stream: nothing, a command, or a refusal. The decoder
latches the operands of the command it reads (10_state R21). -/
def State.fetch (s : State) : Fetched :=
  match s.stream with
  | [] => .ended
  | op :: bytes =>
    match decode (op :: bytes) with
    | .command i rest => .command i ((s.setStream rest).latchOperands i)
    | .refuse r => .refuse r

/-- The mark REFUSED(reason, CPOS) is set (30_encoding R118). -/
def State.markRefused (r : DecodeRefusal) (s : State) : State :=
  { s with refused := some { reason := r, cpos := s.cpos } }

/-- The stream is loaded so that the next step runs the given bytes: the host has a step there only
with no fault, no refusal mark and no handshake held (60_exceptions R350; log 1), and completes what it
starts where it is given every micro-step (R351; log 26). -/
def State.loadStream (bytes : List Byte) (s : State) : State :=
  { s with stream := bytes, fault := none, refused := none, arbPhase := .idle, hostShare := none }

end Sys2Proof.Machine
end

