-- ==== Sys2Proof/Machine/Agents.lean ====
section
/-! DEFINITION. The agents of 60_exceptions R350 and the interleaving (R351, 00_scope R13). The schedule
of State says which moves the other four agents make at each boundary between two host micro-steps, one
list of moves a boundary; a move whose agent is not enabled there is no step (log 2). No agent is promised
a share: the schedule may give any of the four none, `hostShare` says how many micro-steps the host is
given (log 26), and with `endless` set the moves of the others never run out (log 27). -/

/-- FREE VALUE: the moves the others make at the next boundary of an endless interleaving
(60_exceptions R351; log 27). -/
opaque Sys2Proof.Config.freeMoves : Nat → List Sys2Proof.Machine.Move

namespace Sys2Proof.Machine

/-- The tick handler, one atomic step (60_exceptions R361). -/
def State.tickHandler (s : State) : State :=
  (((s.emit .tickFire).drive .int true).drive .int false).emit (.intPulse .tick)

/-- A masked edge uses up a draw (log 9). -/
def State.useEdgeDraw (s : State) : State := { s with edgeDraws := s.edgeDraws + 1 }

/-- A masked edge (60_exceptions R366). Under Either a draw chooses (log 9). -/
def State.maskedEdge (s : State) : State :=
  match s.cfg.maskedEdge with
  | .lost => s
  | .deferred => s.setFlag .dbPending true
  | .either =>
    if Config.freeEdge s.edgeDraws then s.useEdgeDraw.setFlag .dbPending true else s.useEdgeDraw

/-- The level of DBELL changes (10_state R36). -/
def State.setDbell (v : Bool) (s : State) : State := { s with dbell := v }

/-- The level of REQ changes (10_state R36). -/
def State.setReq (v : Bool) (s : State) : State := { s with req := v }

/-- The doorbell edge: DBELL changes to `v`, DbEdge(v) is emitted, and in the same step the edge is
latched, masked or ignored (60_exceptions R365). -/
def State.dbellEdge (v : Bool) (s : State) : State :=
  let s := (s.setDbell v).emit (.dbEdge v)
  if s.doorbellIe then
    if s.ie then s.setFlag .doorbellLatch true else s.maskedEdge
  else s

/-- The delivery of a pending edge (60_exceptions R367). -/
def State.deliverPending (s : State) : State :=
  (s.setFlag .doorbellLatch true).setFlag .dbPending false

/-- REQ changes to `v` (60_exceptions R370). -/
def State.changeReq (v : Bool) (s : State) : State := (s.setReq v).emit (.req v)

/-- A write by the expansion card (60_exceptions R370, 20_memory R80). -/
def State.cardStore (a : Addr) (v : Byte) (s : State) : State := (s.setMem a v).emit (.xWrite a v)

/-- A write by the guest (60_exceptions R372, 20_memory R80). -/
def State.guestStore (a : Addr) (v : Byte) (s : State) : State := (s.setMem a v).emit (.gWrite a v)

/-- Whether a move's agent is enabled (60_exceptions R350). Assigning REQ or DBELL the level it has is
no change and no step (10_state R49; log 16). -/
def State.enabled (s : State) : Move → Bool
  | .tick => s.tickArmed && s.ie
  | .doorbellDeliver => s.dbPending && s.ie
  | .cardReq v => s.cfg.hasExpansion && (s.req != v)
  | .cardDbell v => s.cfg.hasExpansion && (s.dbell != v)
  | .cardWrite _ _ => s.expansionOwnsBus
  | .guestWrite _ _ => s.guestMayAccess

/-- The effect of an enabled move. -/
def State.perform (s : State) : Move → State
  | .tick => s.tickHandler
  | .doorbellDeliver => s.deliverPending
  | .cardReq v => s.changeReq v
  | .cardDbell v => s.dbellEdge v
  | .cardWrite a v => s.cardStore a v
  | .guestWrite a v => s.guestStore a v

/-- One step of another agent. -/
def State.move (s : State) (m : Move) : State := if s.enabled m then s.perform m else s

/-- The steps of the other agents at one boundary, in order. -/
def State.moves : List Move → State → State
  | [], s => s
  | m :: ms, s => State.moves ms (s.move m)

/-- The boundaries the schedule still holds. -/
def State.setSchedule (l : List (List Move)) (s : State) : State := { s with schedule := l }

/-- A boundary of an endless interleaving uses up a draw (log 27). -/
def State.useMoveDraw (s : State) : State := { s with moveDraws := s.moveDraws + 1 }

/-- A boundary between two host micro-steps: the others make the moves the schedule lists for it, any
number of them or none (60_exceptions R351). With the schedule used up no other agent moves any more,
unless the interleaving is endless: then a draw lists the moves of the boundary (log 27). Whether a host
micro-step follows is `State.grant`'s. -/
def State.others (s : State) : State :=
  match s.schedule, s.endless with
  | batch :: rest, _ => State.moves batch (s.setSchedule rest)
  | [], true => State.moves (Config.freeMoves s.moveDraws) s.useMoveDraw
  | [], false => s

/-- `k` boundaries in a row, with no host micro-step between them. -/
def State.waits : Nat → State → State
  | 0, s => s
  | k + 1, s => State.waits k s.others

/-! ### The host's share (60_exceptions R351, log 26) -/

/-- The micro-steps the host is still given: none for one at every boundary, some n for n more. -/
def State.setHostShare (v : Option Nat) (s : State) : State := { s with hostShare := v }

/-- One micro-step of the host's share is used. -/
def State.spend (s : State) : State :=
  match s.hostShare with
  | some (n + 1) => s.setHostShare (some n)
  | some 0 => s
  | none => s

/-- Whether the host is given its next micro-step. A host whose share is used up has no step ever
after: R351 promises it none. -/
def State.grant (s : State) : Result Unit :=
  if s.hostShare = some 0 then .stop s else .ok () s.spend

/-- A boundary, then the host's turn if it is given one. -/
def State.turn (s : State) : Result Unit := s.others.grant

/-- Host micro-steps in order, with a boundary before each (00_scope R13), as far as the host is given
them. -/
def State.runMicros : List (State → State) → State → Result Unit
  | [], s => .ok () s
  | f :: fs, s => s.turn.bind fun _ s => State.runMicros fs (f s)

/-- Every command but INIT checks INITIALISED = 1 as its first micro-step (60_exceptions R344). -/
def State.requireInit (s : State) : Result Unit :=
  s.turn.bind fun _ s => if s.initialised then .ok () s else .stop (s.raise .notInitialised)

end Sys2Proof.Machine
end

