-- ==== Sys2Proof/Machine/Link.lean ====
section
/-! DEFINITION. The Bus Link: serial frames (30_encoding R120 to R124) and the two cycles
(41_bus_link R140 to R148). A cycle is one atomic step, as R145 admits (log 10), with its frame bits
and the lines it leaves. -/

namespace Sys2Proof.Machine

/-- The `n` low bits of a value, most significant first. -/
def msbBits : Nat → Nat → List Bool
  | 0, _ => []
  | n + 1, v => v.testBit n :: msbBits n v

/-- The value of a list of bits, most significant first, after the bits already gathered. -/
def ofMsbBits (acc : Nat) : List Bool → Nat
  | [] => acc
  | b :: bs => ofMsbBits (2 * acc + b.toNat) bs

/-- An `n`-bit field as the link shifts it (30_encoding R121). -/
def serialBits (o : FrameOrder) (n v : Nat) : List Bool :=
  match o with
  | .msbFirst => msbBits n v
  | .lsbFirst => (msbBits n v).reverse

/-- A field assembled from the bits the link shifted, first bit first (30_encoding R121, R123). -/
def assembleBits (o : FrameOrder) (bits : List Bool) : Nat :=
  match o with
  | .msbFirst => ofMsbBits 0 bits
  | .lsbFirst => ofMsbBits 0 bits.reverse

/-- The address frame of a read cycle (30_encoding R122). -/
def frame16 (o : FrameOrder) (a : Addr) : List Bool := serialBits o 16 a.toNat

/-- The frame of a write cycle: the address bits, then the data bits (30_encoding R120, R121). -/
def frame24 (o : FrameOrder) (a : Addr) (v : Byte) : List Bool :=
  serialBits o 16 a.toNat ++ serialBits o 8 v.toNat

/-- LINK_BUSY is assigned (10_state R33). -/
def State.setLinkBusy (v : Bool) (s : State) : State := { s with linkBusy := v }

/-- The bits go out on SDO, one per SCLK tick; SDO keeps the last (41_bus_link R141). -/
def State.shiftOut (bits : List Bool) (s : State) : State :=
  { s with frameOut := bits, sdo := bits.getLastD s.sdo, sclk := false }

/-- The external chain holds the address its first 16 bits spell (10_state R39, 41_bus_link R141). -/
def State.loadAddr (bits : List Bool) (s : State) : State :=
  { s with srAddr := BitVec.ofNat 16 (assembleBits s.cfg.frameOrder (bits.take 16)) }

/-- The external chain holds the data its next 8 bits spell (10_state R39, 41_bus_link R141). -/
def State.loadData (bits : List Bool) (s : State) : State :=
  { s with srData := BitVec.ofNat 8 (assembleBits s.cfg.frameOrder (bits.drop 16)), frameIn := [] }

/-- `if a ∈ RAM_SET then Mem[a] <- v` (41_bus_link R141). -/
def State.storeRam (a : Addr) (v : Byte) (s : State) : State :=
  if inRam s.cfg a then s.setMem a v else s

/-- What a read cycle captures: Mem[a] for a ∈ RAM_SET, else a fresh draw (20_memory R71, 41_bus_link
R142, R144; log 8). -/
def State.captured (s : State) (a : Addr) : Byte :=
  if inRam s.cfg a then s.memAt a else Config.freeByte s.byteDraws

/-- The capture loads SR_DATA, and an address outside RAM_SET uses up its draw. -/
def State.capture (a : Addr) (s : State) : State :=
  if inRam s.cfg a then { s with srData := s.memAt a }
  else { s with srData := Config.freeByte s.byteDraws, byteDraws := s.byteDraws + 1 }

/-- The captured byte comes back on SDI, one bit per SCLK tick (30_encoding R123, 41_bus_link R142). The
spec names no driver and no level of SDI outside this phase (10_state R36). DESIGN CHOICE (log 24), unsafe:
SDI keeps the last bit read until the next read cycle, and nothing else moves it. -/
def State.shiftIn (s : State) : State :=
  let bits := serialBits s.cfg.frameOrder 8 s.srData.toNat
  { s with frameIn := bits, sdi := bits.getLastD s.sdi, sclk := false }

/-- The byte the host assembles from the bits read back (41_bus_link R142). -/
def State.assembled (s : State) : Byte :=
  BitVec.ofNat 8 (assembleBits s.cfg.frameOrder s.frameIn)

/-- Micro-steps with no boundary between them. -/
def State.atomic : List (State → State) → State → State
  | [], s => s
  | f :: fs, s => State.atomic fs (f s)

/-- The write cycle after its check, in the order of 41_bus_link R141. -/
def State.writeEffect (a : Addr) (v : Byte) (s : State) : State :=
  let bits := frame24 s.cfg.frameOrder a v
  State.atomic
    [State.setLinkBusy true, State.shiftOut bits, State.loadAddr bits, State.loadData bits,
      State.setWire .aoe true, State.setWire .rwn false, State.setWire .rwn true,
      State.storeRam a v, State.emit (.cyc .write a v), State.setWire .aoe false,
      State.setLinkBusy false] s

/-- The read cycle after its check, in the order of 41_bus_link R142. -/
def State.readEffect (a : Addr) (s : State) : State :=
  let bits := frame16 s.cfg.frameOrder a
  State.atomic
    [State.setLinkBusy true, State.shiftOut bits, State.loadAddr bits, State.setWire .aoe true,
      State.setWire .latch true, State.setWire .sclk true, State.capture a,
      State.emit (.cyc .read a (s.captured a)), State.setWire .sclk false,
      State.setWire .latch false, State.setWire .aoe false, State.shiftIn,
      State.setLinkBusy false] s

/-- `linkCheck()`: the fault a cycle raises, if any (41_bus_link R140, 60_exceptions R343). -/
def State.linkCheck (s : State) : Option FaultCode :=
  if s.linkBusy then some .linkReentry
  else if s.busFree then none
  else some .busContention

/-- `writeCycle(a, v)` (41_bus_link R141). -/
def State.writeCycle (a : Addr) (v : Byte) (s : State) : Result Unit :=
  s.turn.bind fun _ s =>
    match s.linkCheck with
    | some c => .stop (s.raise c)
    | none => .ok () (s.writeEffect a v)

/-- `readCycle(a)` (41_bus_link R142). -/
def State.readCycle (a : Addr) (s : State) : Result Byte :=
  s.turn.bind fun _ s =>
    match s.linkCheck with
    | some c => .stop (s.raise c)
    | none => .ok (s.readEffect a).assembled (s.readEffect a)

/-- Write cycles one after another (42_memory_facade R170). -/
def State.writeBytes : List (Addr × Byte) → State → Result Unit
  | [], s => .ok () s
  | (a, v) :: rest, s => (s.writeCycle a v).bind fun _ s => State.writeBytes rest s

/-- `QBUF <- [] ; QT <- false` (42_memory_facade R180), except where the first cycle is to raise: a command
that faults changes neither (60_exceptions R346), and what `linkCheck` says here it says at that cycle too
(R170 item 5; log 14). -/
def State.startString (s : State) : State :=
  match s.linkCheck with
  | none => s.setString [] false
  | some _ => s

/-- The loop of `readString`, with `n` bytes still allowed and the bytes read so far (42_memory_facade
R180). QBUF and QT are written with each cycle, so what is read so far stands in QBUF wherever the host
stops. -/
def State.readString : Nat → Addr → List Byte → State → Result Unit
  | 0, _, got, s => .ok () (s.setString got false)
  | n + 1, a, got, s =>
    (s.readCycle a).bind fun b s =>
      if b = 0x00#8 then .ok () (s.setString got true)
      else State.readString n (a + 1#16) (got ++ [b]) (s.setString (got ++ [b]) false)

end Sys2Proof.Machine
end

