-- ==== Sys2Proof/Machine/Arbiter.lean ====
section
/-! DEFINITION. The command of 45_expansion_arbiter: POLL. Its hold is a next state with ARB_PHASE =
Acked, in which `step` goes on with POLL instead of fetching; each further step is one look at REQ
(R304; log 11). -/

namespace Sys2Proof.Machine

/-- Handshake entry: the pause if a guest is running, then ACK (45_expansion_arbiter R303). -/
def handshakeEntrySteps (wasRunning : Bool) : List (State → State) :=
  [State.setFlag .arbWasRunning wasRunning] ++
  (if wasRunning then [State.drive .busen false] else []) ++
  [State.drive .ack true, State.setArbPhase .acked]

/-- Handshake exit: ACK is released, then the guest resumes if it was running
(45_expansion_arbiter R305). -/
def handshakeExitSteps (wasRunning : Bool) : List (State → State) :=
  [State.drive .ack false] ++
  (if wasRunning then [State.drive .busen true] else []) ++
  [State.setArbPhase .idle, State.setFlag .arbWasRunning false]

/-- Delivery to a running guest: pause, one write cycle, resume, INT pulse (45_expansion_arbiter
R311). -/
def State.deliverDoorbell (s : State) : Result Unit :=
  (State.runMicros [State.drive .busen false] s).bind fun _ s =>
    (s.writeCycle s.cfg.mbxExpFlag Config.expFlagValue).bind fun _ s =>
      State.runMicros
        [State.drive .busen true, State.drive .int true, State.drive .int false,
          State.emit (.intPulse .doorbell)] s

/-- Part 2 of POLL: the test of DOORBELL_LATCH, the delivery if a guest runs, and the clear, a
micro-step of its own (45_expansion_arbiter R310 to R313). -/
def State.serviceDoorbell (s : State) : Result Unit :=
  s.turn.bind fun _ s =>
    if s.doorbellLatch then
      (if s.isRunning then s.deliverDoorbell else .ok () s).bind fun _ s =>
        State.runMicros [State.setFlag .doorbellLatch false] s
    else .ok () s

/-- One look at REQ during the hold: the host has no step while REQ = 1, and none of its share is used;
else the handshake ends and part 2 follows (45_expansion_arbiter R304, R305). -/
def State.resumeHandshake (s : State) : Host.Outcome State Fault Refusal :=
  let s := s.others
  if s.req then .next s
  else
    (s.grant.bind fun _ s =>
      (State.runMicros (handshakeExitSteps s.arbWasRunning) s).bind fun _ s =>
        s.serviceDoorbell).finish

/-- `POLL` (45_expansion_arbiter R300). Without the expansion port it does nothing (R301). REQ is
sampled once (R302). -/
def execPoll (s : State) : Host.Outcome State Fault Refusal :=
  match s.arbPhase with
  | .acked => s.resumeHandshake
  | .idle =>
    match s.requireInit with
    | .stop s => .next s
    | .ok _ s =>
      if s.cfg.hasExpansion then
        match s.turn with
        | .stop s => .next s
        | .ok _ s =>
          if s.req then (State.runMicros (handshakeEntrySteps s.isRunning) s).pause
          else s.serviceDoorbell.finish
      else .next s.complete

end Sys2Proof.Machine
end

