-- ==== Sys2Proof/Machine/BusLink.lean ====
section
/-! DEFINITION. The commands of 41_bus_link: WRB and RDB. -/

namespace Sys2Proof.Machine

/-- `WRB A, D`: writeCycle(A, D) (41_bus_link R150). -/
def execWrb (a : Addr) (d : Byte) (s : State) : Host.Outcome State Fault Refusal :=
  (s.requireInit.bind fun _ s => s.writeCycle a d).finish

/-- `RDB A`: Q <- zext_16(readCycle(A)) (41_bus_link R152). -/
def execRdb (a : Addr) (s : State) : Host.Outcome State Fault Refusal :=
  (s.requireInit.bind fun _ s => (s.readCycle a).bind fun b s => .ok () (s.setQ (zext16 b))).finish

end Sys2Proof.Machine
end

