-- ==== Sys2Proof/Machine/Facade.lean ====
section
/-! DEFINITION. The commands of 42_memory_facade: WRW, RDW, WRL, WRT and RDS. -/

namespace Sys2Proof.Machine

/-- `WRW A, D`: the low byte at A, the high byte at A +16 1 (42_memory_facade R171). -/
def execWrw (a : Addr) (d : Word16) (s : State) : Host.Outcome State Fault Refusal :=
  (s.requireInit.bind fun _ s => State.writeBytes (bytesFrom a (bytes16 d)) s).finish

/-- `RDW A`: Q <- lo + 256 × hi (42_memory_facade R175). -/
def execRdw (a : Addr) (s : State) : Host.Outcome State Fault Refusal :=
  (s.requireInit.bind fun _ s =>
    (s.readCycle a).bind fun lo s =>
      (s.readCycle (a + 1#16)).bind fun hi s => .ok () (s.setQ (joinBytes lo hi))).finish

/-- `WRL A, D`: four bytes, little-endian (42_memory_facade R173). -/
def execWrl (a : Addr) (d : Word32) (s : State) : Host.Outcome State Fault Refusal :=
  (s.requireInit.bind fun _ s => State.writeBytes (bytesFrom a (bytes32 d)) s).finish

/-- `WRT A, T`: the text, then a zero byte (42_memory_facade R177). -/
def execWrt (a : Addr) (t : List Byte) (s : State) : Host.Outcome State Fault Refusal :=
  (s.requireInit.bind fun _ s => State.writeBytes (bytesFrom a (t ++ [0x00#8])) s).finish

/-- `RDS A, N`: QBUF and QT are written as the bytes are read (42_memory_facade R180; log 14). -/
def execRds (a : Addr) (n : Word16) (s : State) : Host.Outcome State Fault Refusal :=
  (s.requireInit.bind fun _ s => State.readString n.toNat a [] s.startString).finish

end Sys2Proof.Machine
end

