-- ==== Sys2Proof/Machine/Lifecycle.lean ====
section
/-! DEFINITION. The commands of 44_cpu_lifecycle: INIT, HRST, RUN, STOP, SARCH and SSPD. Each list
gives a command's micro-steps in the order of the rule's pseudocode. -/

namespace Sys2Proof.Machine

/-- ARCH is loaded from SETTINGS[0]; a byte over 1 is replaced by the default, written back
(44_cpu_lifecycle R242). -/
def loadArchSteps (c : Config) (stored : Byte) : List (State → State) :=
  match Arch.ofCode stored with
  | some x => [State.setArch x]
  | none =>
    [State.setSetting .architecture c.defaultArch.code,
      State.emit (.setW .architecture c.defaultArch.code), State.setArch c.defaultArch]

/-- SPEED is loaded from SETTINGS[1] likewise (44_cpu_lifecycle R243). -/
def loadSpeedSteps (c : Config) (stored : Byte) : List (State → State) :=
  match Speed.ofCode stored with
  | some x => [State.setSpeed x]
  | none =>
    [State.setSetting .speed c.defaultSpeed.code,
      State.emit (.setW .speed c.defaultSpeed.code), State.setSpeed c.defaultSpeed]

/-- ARCHSEL mirrors ARCH (10_state R37). -/
def State.mirrorArch (s : State) : State := s.drive .archsel (archLevel s.arch)

/-- SPEEDSEL mirrors SPEED (10_state R37). -/
def State.mirrorSpeed (s : State) : State := s.drive .speedsel (speedLevel s.speed)

/-- Every control line goes to its idle level, BUSEN first (44_cpu_lifecycle R244). -/
def idleLineSteps (c : Config) : List (State → State) :=
  [State.drive .busen false, State.drive .reset false, State.drive .int false] ++
  (if c.hasExpansion then [State.drive .ack false] else []) ++
  [State.setWire .aoe false, State.setWire .rwn true, State.setWire .latch false,
    State.setWire .sclk false, State.setWire .sdo false, State.mirrorArch, State.mirrorSpeed]

/-- The status registers INIT leaves (44_cpu_lifecycle R245 to R247). -/
def initFlagSteps (c : Config) : List (State → State) :=
  [State.setRunstate .halted, State.setFlag .tickArmed false, State.setFlag .doorbellLatch false,
    State.setFlag .dbPending false, State.setArbPhase .idle, State.setFlag .arbWasRunning false] ++
  (if c.hasExpansion then [State.setFlag .doorbellIe true] else []) ++
  [State.setFlag .ie true, State.setFlag .initialised true]

/-- The micro-steps of INIT after its check, for the stored settings (44_cpu_lifecycle R240). -/
def initSteps (c : Config) (stored0 stored1 : Byte) : List (State → State) :=
  [State.setFlag .ie false] ++ loadArchSteps c stored0 ++ loadSpeedSteps c stored1 ++
    idleLineSteps c ++ initFlagSteps c

/-- `INIT` (44_cpu_lifecycle R240). A second INIT raises REINIT before any effect (60_exceptions
R345). -/
def execInit (s : State) : Host.Outcome State Fault Refusal :=
  (s.turn.bind fun _ s =>
    if s.initialised then .stop (s.raise .reinit)
    else State.runMicros (initSteps s.cfg s.setting0 s.setting1) s).finish

/-- One architecture's select, go and reset sequence (44_cpu_lifecycle R250, R252). -/
def guestPulseSteps (x : Arch) : List (State → State) :=
  [State.drive .archsel (archLevel x), State.drive .reset true, State.drive .busen true,
    State.delay .hrRunPulse, State.drive .busen false, State.delay .hrResetSettle,
    State.drive .reset false]

/-- The micro-steps of HRST after its check (44_cpu_lifecycle R250). -/
def hrstSteps : List (State → State) :=
  [State.setFlag .tickArmed false, State.drive .reset true, State.delay .resetPulse,
    State.drive .reset false] ++ guestPulseSteps .arch6502 ++ guestPulseSteps .archZ80 ++
  [State.mirrorArch, State.setRunstate .halted]

/-- `HRST` (44_cpu_lifecycle R250). -/
def execHrst (s : State) : Host.Outcome State Fault Refusal :=
  (s.requireInit.bind fun _ s => State.runMicros hrstSteps s).finish

/-- The three mailbox bytes RUN zeroes (44_cpu_lifecycle R261 (a)). -/
def mailboxZeros (c : Config) : List (Addr × Byte) :=
  [(c.mbxOutFlag, 0x00#8), (c.mbxOutData, 0x00#8), (c.mbxInFlag, 0x00#8)]

/-- The boot glue of the 6502: the stub, then the reset vector (44_cpu_lifecycle R261 (b)). -/
def glue6502 (c : Config) : List (Addr × Byte) :=
  bytesFrom c.p6502IrqStubAddr c.p6502IrqStub ++ bytesFrom c.p6502ResetVec (bytes16 c.codeLoad)

/-- The boot glue of the Z80: the NMI stub, then the jump unless CODE_LOAD is the natural fetch address
(44_cpu_lifecycle R261 (c)). -/
def glueZ80 (c : Config) : List (Addr × Byte) :=
  bytesFrom Config.z80NmiAddr c.z80NmiStub ++
  (if c.codeLoad = Config.z80BootAddr then []
    else bytesFrom Config.z80BootAddr (c.z80JpOpcode :: bytes16 c.codeLoad))

/-- The boot writes of RUN, in order (44_cpu_lifecycle R260, R261). -/
def bootBytes (c : Config) : Arch → List (Addr × Byte)
  | .arch6502 => mailboxZeros c ++ glue6502 c
  | .archZ80 => mailboxZeros c ++ glueZ80 c

/-- The micro-steps of RUN after its boot writes (44_cpu_lifecycle R262 to R264). -/
def releaseSteps (c : Config) : List (State → State) :=
  [State.setRunstate .running, State.drive .reset true, State.delay .resetPulse,
    State.drive .reset false, State.drive .busen true] ++
  (if c.tickBuildEnabled then [State.setFlag .tickArmed true] else [])

/-- `RUN` (44_cpu_lifecycle R260). -/
def execRun (s : State) : Host.Outcome State Fault Refusal :=
  (s.requireInit.bind fun _ s =>
    (State.writeBytes (bootBytes s.cfg s.arch) s).bind fun _ s =>
      State.runMicros (releaseSteps s.cfg) s).finish

/-- The micro-steps of STOP after its check (44_cpu_lifecycle R270). -/
def stopSteps : List (State → State) :=
  [State.setFlag .tickArmed false, State.drive .reset true, State.drive .busen false,
    State.delay .stopSettle, State.drive .reset false, State.setRunstate .halted]

/-- `STOP` (44_cpu_lifecycle R270). -/
def execStop (s : State) : Host.Outcome State Fault Refusal :=
  (s.requireInit.bind fun _ s => State.runMicros stopSteps s).finish

/-- The micro-steps of SARCH after its checks (44_cpu_lifecycle R280). -/
def sarchSteps (x : Arch) : List (State → State) :=
  [State.setArch x, State.setSetting .architecture x.code, State.emit (.setW .architecture x.code),
    State.drive .archsel (archLevel x)]

/-- `SARCH S`; naming another architecture while Running raises ARCH_SWITCH_WHILE_RUNNING before any
write (44_cpu_lifecycle R280, R282). -/
def execSarch (x : Arch) (s : State) : Host.Outcome State Fault Refusal :=
  (s.requireInit.bind fun _ s =>
    if s.isRunning && decide (x ≠ s.arch) then .stop (s.raise .archSwitchWhileRunning)
    else State.runMicros (sarchSteps x) s).finish

/-- The micro-steps of SSPD after its check (44_cpu_lifecycle R284). -/
def sspdSteps (x : Speed) : List (State → State) :=
  [State.setSpeed x, State.setSetting .speed x.code, State.emit (.setW .speed x.code),
    State.drive .speedsel (speedLevel x)]

/-- `SSPD S` (44_cpu_lifecycle R284). -/
def execSspd (x : Speed) (s : State) : Host.Outcome State Fault Refusal :=
  (s.requireInit.bind fun _ s => State.runMicros (sspdSteps x) s).finish

end Sys2Proof.Machine
end

