-- ==== Sys2Proof/Machine/Video.lean ====
section
/-! DEFINITION. The commands of 43_video_demux: VXL, VWRB and VRDB. -/

namespace Sys2Proof.Machine

/-- `if A ∉ VR then raise Fault(BAD_VIDEO_ADDR)`, else the physical address (43_video_demux R214). -/
def State.routeVideo (a : Addr) (s : State) : Result Addr :=
  if inVideoRegion s.cfg a then .ok (xlate s.cfg a) s else .stop (s.raise .badVideoAddr)

/-- `VXL A`: Q <- xlate(A), with no bus cycle (43_video_demux R214). -/
def execVxl (a : Addr) (s : State) : Host.Outcome State Fault Refusal :=
  (s.requireInit.bind fun _ s => (s.routeVideo a).bind fun p s => .ok () (s.setQ p)).finish

/-- `VWRB A, D`: writeCycle(xlate(A), D) (43_video_demux R216). -/
def execVwrb (a : Addr) (d : Byte) (s : State) : Host.Outcome State Fault Refusal :=
  (s.requireInit.bind fun _ s => (s.routeVideo a).bind fun p s => s.writeCycle p d).finish

/-- `VRDB A`: Q <- zext_16(readCycle(xlate(A))) (43_video_demux R218). -/
def execVrdb (a : Addr) (s : State) : Host.Outcome State Fault Refusal :=
  (s.requireInit.bind fun _ s =>
    (s.routeVideo a).bind fun p s =>
      (s.readCycle p).bind fun b s => .ok () (s.setQ (zext16 b))).finish

end Sys2Proof.Machine
end

