-- ==== Sys2Proof/Machine/Dispatch.lean ====
section
/-! DEFINITION. One arm per command (30_encoding R105). -/

namespace Sys2Proof.Machine

def exec (i : Instr) (s : State) : Host.Outcome State Fault Refusal :=
  match i with
  -- 41_bus_link
  | .wrb a d => Sys2Proof.Machine.execWrb a d s
  | .rdb a => Sys2Proof.Machine.execRdb a s
  -- 42_memory_facade
  | .wrw a d => Sys2Proof.Machine.execWrw a d s
  | .rdw a => Sys2Proof.Machine.execRdw a s
  | .wrl a d => Sys2Proof.Machine.execWrl a d s
  | .wrt a t => Sys2Proof.Machine.execWrt a t s
  | .rds a n => Sys2Proof.Machine.execRds a n s
  -- 43_video_demux
  | .vxl a => Sys2Proof.Machine.execVxl a s
  | .vwrb a d => Sys2Proof.Machine.execVwrb a d s
  | .vrdb a => Sys2Proof.Machine.execVrdb a s
  -- 44_cpu_lifecycle
  | .init => Sys2Proof.Machine.execInit s
  | .hrst => Sys2Proof.Machine.execHrst s
  | .run => Sys2Proof.Machine.execRun s
  | .stop => Sys2Proof.Machine.execStop s
  | .sarch x => Sys2Proof.Machine.execSarch x s
  | .sspd x => Sys2Proof.Machine.execSspd x s
  -- 45_expansion_arbiter
  | .poll => Sys2Proof.Machine.execPoll s

end Sys2Proof.Machine
end

