-- ==== Sys2Proof/Machine/Step.lean ====
section
/-! DEFINITION. One step of the machine: the host runs one command of its stream as far as it is given
micro-steps, or looks once more at a request it holds for, with the other agents' moves at every boundary
between its micro-steps (60_exceptions R350, R351). Where the host has no step, the others' moves at one
boundary are the step. -/

namespace Sys2Proof.Machine

/-- The host has no step. The others move as the schedule says; with their moves used up for good the
machine stops with the given outcome (log 12). -/
def stepOthers (stopped : Host.Outcome State Fault Refusal) (s : State) :
    Host.Outcome State Fault Refusal :=
  match s.schedule, s.endless with
  | [], false => stopped
  | _, _ => .next s.others

/-- The host at its position of the stream: a command runs, a refusal sets the mark (30_encoding R118),
and at the end of the stream the engine is idle (70_reset_and_hazards R406; log 1). A command's own
micro-steps are given it one by one (`State.turn`). -/
def stepHost (s : State) : Host.Outcome State Fault Refusal :=
  match s.arbPhase with
  | .acked => exec .poll s
  | .idle =>
    match s.fetch with
    | .ended => .next s.others
    | .command i t => exec i t
    | .refuse r => .next (s.markRefused r)

/-- One step. A set FAULT and a refusal mark leave the host without a step for ever (60_exceptions
R341, 30_encoding R118), and so does a share used up (R351; log 26). -/
def step (s : State) : Host.Outcome State Fault Refusal :=
  match s.fault, s.refused with
  | some c, _ => stepOthers (.fault (.hostFaulted c)) s
  | none, some m => stepOthers (.refused (.streamRefused m.reason)) s
  | none, none => if s.hostShare = some 0 then .next s.others else stepHost s

/-- The instruction of a row of the opcode table, placed where the next step fetches it: its bytes are
the command stream, and the host has a step. INITIALISED is as the state has it, so right after reset
every command but INIT raises NOT_INITIALISED, as 60_exceptions R344 says (log 1). -/
def State.withFetchWord (s : State) (nbits w : Nat) : State :=
  s.loadStream (tableCommandBytes nbits w)

end Sys2Proof.Machine
end

