-- ==== Sys2Proof/Safety.lean ====
section
/-! DEFINITION. The terms statements use: launches and ends of a run, the invariants of the machine, the
bus discipline of the history, what a command leaves unchanged, and what it adds to the history. -/

namespace Sys2Proof.Safety

open Sys2Proof.Machine

/-! ### Launch, run and end (70_reset_and_hazards R406) -/

/-- The values 10_state R50 fixes at power-on, every other field free. `Launch` adds what else a launch
needs. -/
def PowerOn (s : State) : Prop :=
  s.runstate = .halted ∧ s.tickArmed = false ∧ s.doorbellLatch = false ∧ s.dbPending = false ∧
  s.ie = false ∧ s.doorbellIe = false ∧ s.initialised = false ∧ s.linkBusy = false ∧
  s.arbPhase = .idle ∧ s.arbWasRunning = false ∧ s.fault = none ∧ s.cpos = 0 ∧ s.hist = []

/-- The host is enabled at its position of the stream: no fault, no refusal, no hold (60_exceptions
R350). -/
def HostFree (s : State) : Prop := s.fault = none ∧ s.refused = none ∧ s.arbPhase = .idle

/-- Weak fairness for the host, which a claim that something eventually happens must assume
(60_exceptions R351; log 26): the host is given a micro-step after every boundary. -/
abbrev HostServed (s : State) : Prop := s.hostShare = none

/-- The host is given no micro-step ever after (60_exceptions R351; log 26). -/
abbrev HostDenied (s : State) : Prop := s.hostShare = some 0

/-- No other agent has a move left. -/
abbrev NoMoves (s : State) : Prop := s.schedule = [] ∧ s.endless = false

/-- A launch (R406): a configuration that meets the premises of 00_scope R8 and R9, the power-on values
of 10_state R50, a memory in canonical form, and no refusal mark (the mark is none before any decoding,
log 12). SETTINGS, Mem, the command stream and the interleaving, which the schedule, the host's share and
the draws give, are free. -/
def Launch (s : State) : Prop :=
  s.cfg.wf = true ∧ PowerOn s ∧ s.refused = none ∧ Memory.wf s.mem = true

/-- The states a run goes through from its launch. -/
inductive Reaches : State → State → Prop where
  | refl (s : State) : Reaches s s
  | tail {s t u : State} (h : Reaches s t) (hstep : step t = .next u) : Reaches s u

/-- No command remains, and no fault, no refusal and no hold stands: the condition the end point meets,
and every idle state after it. A host denied inside its last command leaves the stream empty too, but
counts no command, so it reaches no end point. -/
def Ended (s : State) : Prop := HostFree s ∧ s.stream = []

/-- The end point of a run (R406): in the step from `s` the host completes the last micro-step of the
last command the stream holds, with FAULT = none and no refusal mark. A command's step ends with that
micro-step, so `t` is the state at that point of the interleaving, before any later move (log 25). -/
def EndsRun (s t : State) : Prop := step s = .next t ∧ t.cpos = s.cpos + 1 ∧ Ended t

/-- `t` is the end state of a run launched at `l` (R406). Faulted, refused and hanging runs have
none, and neither has a run whose host is denied before its last micro-step (60_exceptions R351). -/
def EndOfRun (l t : State) : Prop := Launch l ∧ ∃ s, Reaches l s ∧ EndsRun s t

/-! ### The invariants -/

/-- What 44_cpu_lifecycle R291 and 10_state R37 say after INIT, at every point between two steps. -/
def InvReady (s : State) : Prop :=
  s.archsel = archLevel s.arch ∧ s.speedsel = speedLevel s.speed ∧
  s.setting0 = s.arch.code ∧ s.setting1 = s.speed.code ∧
  s.resetLine = false ∧ s.int = false ∧ s.aoe = false ∧ s.rwn = true ∧ s.latch = false ∧
  s.sclk = false ∧ s.ie = true ∧ s.doorbellIe = s.cfg.hasExpansion ∧
  (s.tickArmed = true → s.runstate = .running ∧ s.cfg.tickBuildEnabled = true) ∧
  (s.arbPhase = .idle → s.acked = false ∧ s.busen = s.isRunning ∧ s.arbWasRunning = false) ∧
  (s.arbPhase = .acked → s.acked = true ∧ s.busen = false ∧ s.arbWasRunning = s.isRunning)

/-- What holds before INIT: the status registers are as 10_state R50 gives them. -/
def InvPowerOn (s : State) : Prop :=
  s.runstate = .halted ∧ s.tickArmed = false ∧ s.doorbellLatch = false ∧ s.dbPending = false ∧
  s.ie = false ∧ s.doorbellIe = false ∧ s.arbPhase = .idle ∧ s.arbWasRunning = false

/-- The invariant of the machine. A denied host may stand inside a command, between two of its
micro-steps, for ever (60_exceptions R351): there it says what holds at every point of the interleaving,
and the rest of it what holds between two commands. -/
def MachineInv (s : State) : Prop :=
  Memory.wf s.mem = true ∧ s.linkBusy = false ∧
  (s.initialised = true → ¬ (s.busen = true ∧ s.acked = true)) ∧
  (¬ HostDenied s → (s.initialised = true → InvReady s) ∧ (s.initialised = false → InvPowerOn s))

/-! ### The bus discipline of the history (20_memory R80, 45_expansion_arbiter R306) -/

/-- One event read with the levels of BUSEN and ACK before it: the levels after it, or none where the
event breaks the discipline. ACK and BUSEN are never both 1; a host cycle needs both 0; a guest write
needs BUSEN = 1 and a card write ACK = 1. -/
def busEvent (busen ack : Bool) : Event → Option (Bool × Bool)
  | .line .busen v => if v && ack then none else some (v, ack)
  | .line .ack v => if v && busen then none else some (busen, v)
  | .line .archsel _ => some (busen, ack)
  | .line .speedsel _ => some (busen, ack)
  | .line .reset _ => some (busen, ack)
  | .line .int _ => some (busen, ack)
  | .cyc _ _ _ => if busen || ack then none else some (busen, ack)
  | .gWrite _ _ => if busen then some (busen, ack) else none
  | .xWrite _ _ => if ack then some (busen, ack) else none
  | .intPulse _ => some (busen, ack)
  | .tickFire => some (busen, ack)
  | .dbEdge _ => some (busen, ack)
  | .req _ => some (busen, ack)
  | .setW _ _ => some (busen, ack)
  | .delay _ => some (busen, ack)
  | .fault _ => some (busen, ack)

/-- A list of events read from given levels of BUSEN and ACK. -/
def busReplay : List Event → Bool → Bool → Option (Bool × Bool)
  | [], busen, ack => some (busen, ack)
  | e :: es, busen, ack =>
    match busEvent busen ack e with
    | some (b, k) => busReplay es b k
    | none => none

/-! ### When a command's cycles can run -/

/-- The conditions under which a command that makes cycles raises nothing: INITIALISED (60_exceptions
R344), no cycle in flight and BusFree (41_bus_link R140); and that the host is given its micro-steps
(60_exceptions R351). -/
def CanCycle (s : State) : Prop :=
  HostServed s ∧ s.initialised = true ∧ s.linkBusy = false ∧ s.busFree = true

/-- A move that writes Mem. -/
def isBusWrite : Move → Bool
  | .tick => false
  | .doorbellDeliver => false
  | .cardReq _ => false
  | .cardDbell _ => false
  | .cardWrite _ _ => true
  | .guestWrite _ _ => true

/-- The premise "no GWrite and no XWrite" on what the schedule still holds, and on the draws of an
endless interleaving. -/
def NoBusWrites (s : State) : Prop :=
  (∀ batch ∈ s.schedule, ∀ m ∈ batch, isBusWrite m = false) ∧
  (s.endless = true → ∀ n, ∀ m ∈ Config.freeMoves n, isBusWrite m = false)

/-! ### What a command leaves unchanged -/

/-- Configuration, operand registers and the rest of the stream; and of the scheduling, that a host
that is given every micro-step goes on to be, and whether the interleaving is endless. -/
def KeepsOperands (s t : State) : Prop :=
  t.cfg = s.cfg ∧ t.opA = s.opA ∧ t.opD = s.opD ∧ t.opN = s.opN ∧ t.opS = s.opS ∧
  t.opT = s.opT ∧ t.stream = s.stream ∧ t.endless = s.endless ∧ (HostServed s → HostServed t)

/-- The string result. -/
def KeepsString (s t : State) : Prop := t.qbuf = s.qbuf ∧ t.qt = s.qt

/-- The result registers. -/
def KeepsResults (s t : State) : Prop := t.q = s.q ∧ KeepsString s t

/-- The modes and enables that only commands write, but the run state and the tick arm. -/
def KeepsModes (s t : State) : Prop :=
  t.arch = s.arch ∧ t.speed = s.speed ∧ t.ie = s.ie ∧ t.doorbellIe = s.doorbellIe ∧
  t.initialised = s.initialised ∧ t.refused = s.refused ∧ t.linkBusy = s.linkBusy

/-- The arbiter's position. -/
def KeepsArbiter (s t : State) : Prop := t.arbPhase = s.arbPhase ∧ t.arbWasRunning = s.arbWasRunning

/-- The run state and the tick arm. -/
def KeepsRun (s t : State) : Prop := t.runstate = s.runstate ∧ t.tickArmed = s.tickArmed

/-- The recorded output lines that only commands drive. -/
def KeepsLines (s t : State) : Prop :=
  t.archsel = s.archsel ∧ t.speedsel = s.speedsel ∧ t.resetLine = s.resetLine ∧
  t.busen = s.busen ∧ t.ack = s.ack

/-- The settings store. -/
def KeepsSettings (s t : State) : Prop := t.setting0 = s.setting0 ∧ t.setting1 = s.setting1

/-- The link: its lines, registers and draws. That nothing but a read cycle moves SDI is the model's
choice (log 24). -/
def KeepsLink (s t : State) : Prop :=
  t.aoe = s.aoe ∧ t.rwn = s.rwn ∧ t.latch = s.latch ∧ t.sclk = s.sclk ∧ t.sdo = s.sdo ∧
  t.sdi = s.sdi ∧ t.srAddr = s.srAddr ∧ t.srData = s.srData ∧ t.byteDraws = s.byteDraws ∧
  t.frameOut = s.frameOut ∧ t.frameIn = s.frameIn

/-- What only the other agents write besides Mem and H: the input lines, the doorbell registers, INT,
the draws of masked edges and of moves, and how much of the schedule is used. -/
def SameAsync (u t : State) : Prop :=
  t.schedule = u.schedule ∧ t.req = u.req ∧ t.dbell = u.dbell ∧
  t.doorbellLatch = u.doorbellLatch ∧ t.dbPending = u.dbPending ∧ t.int = u.int ∧
  t.edgeDraws = u.edgeDraws ∧ t.moveDraws = u.moveDraws

/-- The input lines, and how much of the schedule and of the draws of moves is used, are what the other
agents' moves at `u`'s boundaries leave. -/
def SameInputs (u t : State) : Prop :=
  t.schedule = u.schedule ∧ t.moveDraws = u.moveDraws ∧ t.req = u.req ∧ t.dbell = u.dbell

/-- Everything but the link, the results, CPOS, FAULT, Mem, H and the host's share is kept, and the
other agents have done exactly what they do at `k` boundaries. -/
def KeepsRest (k : Nat) (s t : State) : Prop :=
  KeepsOperands s t ∧ KeepsModes s t ∧ KeepsArbiter s t ∧ KeepsRun s t ∧ KeepsLines s t ∧
  KeepsSettings s t ∧ SameAsync (State.waits k s) t

/-- A command has completed: CPOS counts it and FAULT is as before. -/
def Completed (s t : State) : Prop := t.cpos = s.cpos + 1 ∧ t.fault = s.fault

/-- A command has raised one fault after `k` boundaries, and the host has changed nothing else but its
share. -/
def FaultedAt (k : Nat) (s t : State) : Prop :=
  ∃ c share, t = ((State.waits k s).setHostShare share).raise c ∧ (HostServed s → share = none)

/-- The host was denied inside the command: CPOS does not count it and FAULT is as before (60_exceptions
R351). -/
def CutShort (s t : State) : Prop := HostDenied t ∧ t.cpos = s.cpos ∧ t.fault = s.fault

/-- How a command ends: it completes, it faults precisely, or its host was not given every micro-step and
is denied the rest (60_exceptions R341, R346, R351). -/
def EndsPrecisely (k : Nat) (s t : State) : Prop :=
  Completed s t ∨ FaultedAt k s t ∨ (¬ HostServed s ∧ CutShort s t)

/-- The micro-steps part 2 of POLL takes after its test of the latch: the delivery to a running guest and
the clear (45_expansion_arbiter R311 to R313). -/
def serviceTurns (latched running : Bool) : Nat :=
  if latched then (if running then 7 else 1) else 0

/-- The micro-steps POLL takes from `s` where the host is given them all (45_expansion_arbiter R300):
the INITIALISED check, the sample of REQ, the handshake's entry or the test of the latch and what follows;
in a hold the look that finds REQ = 0, the handshake's exit, the test and what follows, and none while
REQ = 1 (R304). -/
def pollTurns (s : State) : Nat :=
  match s.arbPhase with
  | .idle =>
    if s.initialised && s.cfg.hasExpansion then
      if (State.waits 2 s).req then (if s.isRunning then 6 else 5)
      else 3 + serviceTurns (State.waits 3 s).doorbellLatch s.isRunning
    else 1
  | .acked =>
    if s.others.req then 0
    else if s.arbWasRunning then 6 + serviceTurns (State.waits 6 s).doorbellLatch s.isRunning
    else 5 + serviceTurns (State.waits 5 s).doorbellLatch s.isRunning

/-- The commands whose first effect, once their operands are checked, is a Bus Link cycle
(60_exceptions R342, code 3). `RDS` of length 0 makes none (42_memory_facade R180). -/
def makesCycle (c : Config) : Instr → Bool
  | .wrb _ _ => true
  | .rdb _ => true
  | .wrw _ _ => true
  | .rdw _ => true
  | .wrl _ _ => true
  | .wrt _ _ => true
  | .rds _ n => n != 0#16
  | .vxl _ => false
  | .vwrb a _ => inVideoRegion c a
  | .vrdb a => inVideoRegion c a
  | .init => false
  | .hrst => false
  | .run => true
  | .stop => false
  | .sarch _ => false
  | .sspd _ => false
  | .poll => false

/-- The addresses a memory command's write cycles go to. -/
def storedAddrs (c : Config) : Instr → List Addr
  | .wrb a _ => [a]
  | .wrw a d => (bytesFrom a (bytes16 d)).map Prod.fst
  | .wrl a d => (bytesFrom a (bytes32 d)).map Prod.fst
  | .wrt a t => (bytesFrom a (t ++ [0x00#8])).map Prod.fst
  | .vwrb a _ => [xlate c a]
  | .rdb _ => []
  | .rdw _ => []
  | .rds _ _ => []
  | .vxl _ => []
  | .vrdb _ => []
  | .init => []
  | .hrst => []
  | .run => []
  | .stop => []
  | .sarch _ => []
  | .sspd _ => []
  | .poll => []

/-- The commands that only store bytes. -/
def isStore : Instr → Bool
  | .wrb _ _ => true
  | .wrw _ _ => true
  | .wrl _ _ => true
  | .wrt _ _ => true
  | .vwrb _ _ => true
  | .rdb _ => false
  | .rdw _ => false
  | .rds _ _ => false
  | .vxl _ => false
  | .vrdb _ => false
  | .init => false
  | .hrst => false
  | .run => false
  | .stop => false
  | .sarch _ => false
  | .sspd _ => false
  | .poll => false

/-- The commands that only read: the scalar reads and the translation, and the string read. -/
def isRead : Instr → Bool
  | .rdb _ => true
  | .rdw _ => true
  | .rds _ _ => true
  | .vxl _ => true
  | .vrdb _ => true
  | .wrb _ _ => false
  | .wrw _ _ => false
  | .wrl _ _ => false
  | .wrt _ _ => false
  | .vwrb _ _ => false
  | .init => false
  | .hrst => false
  | .run => false
  | .stop => false
  | .sarch _ => false
  | .sspd _ => false
  | .poll => false

/-! ### What a command stores and adds to the history -/

/-- The last byte a list of writes gives an address. -/
def lastWrite : List (Addr × Byte) → Addr → Option Byte
  | [], _ => none
  | (a, v) :: rest, b =>
    match lastWrite rest b with
    | some x => some x
    | none => if a = b then some v else none

/-- The byte at an address after a list of write cycles: only addresses of RAM_SET are written. -/
def byteAfter (s : State) (writes : List (Addr × Byte)) (b : Addr) : Byte :=
  if inRam s.cfg b then (lastWrite writes b).getD (s.memAt b) else s.memAt b

/-- The events of a list of write cycles. -/
def writeEvents (writes : List (Addr × Byte)) : List Event :=
  writes.map (fun p => Event.cyc .write p.1 p.2)

/-- An event that only a host micro-step emits. `Line(INT, ·)` is emitted by the tick too and is left
out. -/
def hostEvent : Event → Bool
  | .cyc _ _ _ => true
  | .line .int _ => false
  | .line .archsel _ => true
  | .line .speedsel _ => true
  | .line .reset _ => true
  | .line .busen _ => true
  | .line .ack _ => true
  | .intPulse .tick => false
  | .intPulse .doorbell => true
  | .tickFire => false
  | .dbEdge _ => false
  | .req _ => false
  | .gWrite _ _ => false
  | .xWrite _ _ => false
  | .setW _ _ => true
  | .delay _ => true
  | .fault _ => true

/-- The host's own part of a history. -/
def hostLog (h : List Event) : List Event := h.filter hostEvent

/-- The events a doorbell delivery adds (45_expansion_arbiter R311): pause, one write cycle, resume, the
INT pulse. -/
def deliveryEvents (c : Config) : List Event :=
  [.line .busen false, .cyc .write c.mbxExpFlag Config.expFlagValue, .line .busen true,
    .line .int true, .line .int false, .intPulse .doorbell]

/-- The events INIT adds from `s`, for the settings `x` and `y` it loads (44_cpu_lifecycle R240, R242 to
R244): the settings written back, then each recorded line at its idle level. -/
def initEvents (s : State) (x : Arch) (y : Speed) : List Event :=
  (if s.setting0.toNat ≤ 1 then [] else [.setW .architecture s.cfg.defaultArch.code]) ++
  (if s.setting1.toNat ≤ 1 then [] else [.setW .speed s.cfg.defaultSpeed.code]) ++
  [.line .busen false, .line .reset false, .line .int false] ++
  (if s.cfg.hasExpansion then [.line .ack false] else []) ++
  [.line .archsel (archLevel x), .line .speedsel (speedLevel y)]

/-- The listed events occur in `ev` in this order, with only other agents' events before, between and
after them. -/
def InOrder : List Event → List Event → Prop
  | [], ev => hostLog ev = []
  | e :: es, ev => ∃ before rest, ev = before ++ e :: rest ∧ hostLog before = [] ∧ InOrder es rest

/-- The events of one guest's reset sequence in HRST (44_cpu_lifecycle R250). -/
def guestPulseEvents (x : Arch) : List Event :=
  [.line .archsel (archLevel x), .line .reset true, .line .busen true, .delay .hrRunPulse,
    .line .busen false, .delay .hrResetSettle, .line .reset false]

end Sys2Proof.Safety
end

