-- ==== Sys2Proof/Certificates/Slice0/Obligations.lean ====
section
/-! DEFINITION. The statements for the provers. Each docstring names the rule of spec/ it formalises.
`State.waits k s` is `s` after `k` boundaries, that is, after the other agents' moves at `k`
boundaries between host micro-steps. 60_exceptions R351 promises no agent a share: a statement that a
command gets anywhere assumes `HostServed`, weak fairness for the host (log 26), or that the host is not
denied. -/

open Sys2Proof Sys2Proof.Machine Sys2Proof.Safety

/-! ### Encoding (30_encoding) -/

/-- Words written out from the spec's own encodings (95_test_vectors 2.1, R101, R102). -/
def Obligations.DecodeReadsSpecWords : Prop :=
  decode [0x10#8, 0x34#8, 0x12#8, 0x56#8] = .command (.wrb 0x1234#16 0x56#8) [] ∧
  decode [0x20#8, 0x00#8, 0x20#8, 0xEF#8, 0xBE#8] = .command (.wrw 0x2000#16 0xBEEF#16) [] ∧
  decode [0x22#8, 0x00#8, 0x30#8, 0x78#8, 0x56#8, 0x34#8, 0x12#8] =
    .command (.wrl 0x3000#16 0x12345678#32) [] ∧
  decode [0x23#8, 0x00#8, 0x03#8, 0x02#8, 0x00#8, 0x48#8, 0x49#8] =
    .command (.wrt 0x0300#16 [0x48#8, 0x49#8]) [] ∧
  decode [0x32#8, 0x4C#8, 0xF8#8] = .command (.vrdb 0xF84C#16) [] ∧
  decode [0x44#8, 0x01#8, 0x50#8] = .command (.sarch .archZ80) [0x50#8] ∧
  decode [0x50#8] = .command .poll []

/-- Decoding the words of a well-formed command gives it back and leaves the rest of the stream, with
every operand at every value (R101 to R106). -/
def Obligations.DecodeGivesBackEncodedCommand : Prop :=
  ∀ (i : Instr) (rest : List Byte), i.wf = true → decode (encode i ++ rest) = .command i rest

/-- Every command the decoder reads is well formed, and the stream began with its words (R101 to
R106): no two streams of one length decode to one command. -/
def Obligations.DecodedStreamBeginsWithItsWords : Prop :=
  ∀ (bytes : List Byte) (i : Instr) (rest : List Byte), decode bytes = .command i rest →
    i.wf = true ∧ bytes = encode i ++ rest

/-- R107: every opcode byte outside the table is refused with ILLEGAL_COMMAND, 0x00 among them. -/
def Obligations.ReservedOpcodeIsIllegalCommand : Prop :=
  ∀ (op : Byte) (rest : List Byte),
    (op.toNat ≤ 0x0F ∨ (0x12 ≤ op.toNat ∧ op.toNat ≤ 0x1F) ∨ (0x25 ≤ op.toNat ∧ op.toNat ≤ 0x2F) ∨
      (0x33 ≤ op.toNat ∧ op.toNat ≤ 0x3F) ∨ (0x46 ≤ op.toNat ∧ op.toNat ≤ 0x4F) ∨
      0x51 ≤ op.toNat) →
    decode (op :: rest) = .refuse .illegalCommand

/-- R108, R109: a selector byte over 1 in SARCH and SSPD, and a zero byte anywhere in WRT's N text
bytes, are refused with BAD_OPERAND. -/
def Obligations.BadOperandBytesAreRefused : Prop :=
  (∀ (sel : Byte) (rest : List Byte), 1 < sel.toNat →
    decode (0x44#8 :: sel :: rest) = .refuse .badOperand ∧
    decode (0x45#8 :: sel :: rest) = .refuse .badOperand) ∧
  (∀ (al ah nl nh : Byte) (text rest : List Byte), text.length = nl.toNat + 256 * nh.toNat →
    0x00#8 ∈ text →
    decode (0x23#8 :: al :: ah :: nl :: nh :: (text ++ rest)) = .refuse .badOperand)

/-- R110: a stream that ends before a command's last operand byte is refused with
TRUNCATED_STREAM. -/
def Obligations.ShortStreamIsTruncated : Prop :=
  ∀ (i : Instr) (front missing : List Byte), i.wf = true → encode i = front ++ missing →
    front ≠ [] → missing ≠ [] → decode front = .refuse .truncatedStream

/-! ### The step, the stream, the fault register -/

/-- A step runs the decoded command: where the host is enabled and not denied and its stream spells `i`,
the step is `exec i` on the state with the command's bytes taken off the stream and its operands latched
(R21, R100). A denied host fetches nothing, and the other agents move on (R351). How much of the command
is run is the host's share (log 26). -/
def Obligations.StepRunsDecodedCommand : Prop :=
  ∀ (s : State) (i : Instr) (rest : List Byte), HostFree s → decode s.stream = .command i rest →
    (¬ HostDenied s → step s = exec i ((s.setStream rest).latchOperands i)) ∧
    (HostDenied s → step s = .next s.others ∧ HostDenied s.others)

/-- The operand registers after the decoder has latched a command, for every command with operands
(R21, R104). -/
def Obligations.OperandRegistersHoldDecodedOperands : Prop :=
  ∀ (s : State) (a : Addr) (d8 : Byte) (d16 n : Word16) (d32 : Word32) (t : List Byte) (x : Arch)
    (y : Speed),
    ((s.latchOperands (.wrb a d8)).opA = a ∧ (s.latchOperands (.wrb a d8)).opD = .byte d8) ∧
    ((s.latchOperands (.wrw a d16)).opA = a ∧ (s.latchOperands (.wrw a d16)).opD = .word d16) ∧
    ((s.latchOperands (.wrl a d32)).opA = a ∧ (s.latchOperands (.wrl a d32)).opD = .long d32) ∧
    ((s.latchOperands (.wrt a t)).opA = a ∧ (s.latchOperands (.wrt a t)).opT = t ∧
      (s.latchOperands (.wrt a t)).opN = BitVec.ofNat 16 t.length) ∧
    ((s.latchOperands (.rds a n)).opA = a ∧ (s.latchOperands (.rds a n)).opN = n) ∧
    (s.latchOperands (.rdb a)).opA = a ∧ (s.latchOperands (.rdw a)).opA = a ∧
    (s.latchOperands (.vxl a)).opA = a ∧ (s.latchOperands (.vrdb a)).opA = a ∧
    ((s.latchOperands (.vwrb a d8)).opA = a ∧ (s.latchOperands (.vwrb a d8)).opD = .byte d8) ∧
    (s.latchOperands (.sarch x)).opS = x.code ∧ (s.latchOperands (.sspd y)).opS = y.code

/-- R118: a refusal sets REFUSED(reason, CPOS) and changes nothing else; the mark is never cleared, and
with it set only the other agents move. A host that is given no step reads nothing and refuses nothing
(R351, log 26). -/
def Obligations.RefusalMarkIsSetAndKept : Prop :=
  (∀ (s : State) (r : DecodeRefusal), HostFree s → ¬ HostDenied s → s.stream ≠ [] →
    decode s.stream = .refuse r →
    step s = .next { s with refused := some { reason := r, cpos := s.cpos } }) ∧
  (∀ (s t : State) (m : RefusedMark), s.refused = some m → step s = .next t →
    t = s.others ∧ t.refused = some m ∧ t.cpos = s.cpos)

/-- R341: `raise Fault(c)` sets FAULT and emits Fault(c) if FAULT is none, does nothing else, and does
nothing at all if FAULT is set. FAULT is never cleared, and with it set the host has no step: only the
other agents move. -/
def Obligations.FaultIsRaisedOnceAndStopsTheHost : Prop :=
  (∀ (s : State) (c : FaultCode), s.fault = none →
    s.raise c = { s with fault := some c, hist := s.hist ++ [.fault c] }) ∧
  (∀ (s : State) (c d : FaultCode), s.fault = some d → s.raise c = s) ∧
  (∀ (s t : State) (c : FaultCode), s.fault = some c → step s = .next t →
    t = s.others ∧ t.fault = some c ∧ t.cpos = s.cpos)

/-- The values 10_state R50 gives at power-on. R50 does not list the refusal mark: that it is none at
reset is the model's choice (log 12). -/
def Obligations.ResetIsPowerOnState : Prop :=
  PowerOn State.reset ∧ State.reset.refused = none

/-- R346, R343: a command other than POLL either completes, CPOS counted and FAULT as before, or raises
one fault and changes nothing else; the other agents' moves apart. With the host served throughout it is
one of the two; a host that is promised no share (R351) may be denied inside it, and raises nothing
then. Of these commands only INIT drives INT (R49, R352): with no move of another agent the events the
others add hold no Line(INT, v). -/
def Obligations.CommandCompletesOrFaultsPrecisely : Prop :=
  ∀ (i : Instr) (s : State), i ≠ .poll → ∃ t, exec i s = .next t ∧
    (∃ k, EndsPrecisely k s t) ∧
    (HostServed s → Completed s t ∨ ∃ k c, t = (State.waits k s).raise c) ∧
    ∃ ev, t.hist = s.hist ++ ev ∧
      (NoMoves s → i ≠ .init → ∀ v : Bool, Event.line .int v ∉ ev)

/-- R344, R345: every command but INIT raises NOT_INITIALISED before any other effect while
INITIALISED = 0, and INIT raises REINIT before any effect while INITIALISED = 1. (A POLL that already
holds a handshake is past its first micro-step. `State.spend` counts that micro-step off a bounded share,
and changes nothing of a host that is served throughout; R351.) -/
def Obligations.InitialisationIsCheckedFirst : Prop :=
  (∀ (i : Instr) (s : State), i ≠ .init → (i = .poll → s.arbPhase = .idle) → ¬ HostDenied s →
    s.initialised = false → exec i s = .next (s.others.spend.raise .notInitialised)) ∧
  (∀ s : State, ¬ HostDenied s → s.initialised = true →
    exec .init s = .next (s.others.spend.raise .reinit)) ∧
  (∀ s : State, HostServed s → s.others.spend = s.others)

/-- R140, R343: a command that makes a cycle raises LINK_REENTRY if a cycle is in flight, and else
BUS_CONTENTION if BUSEN = 1 or ACK = 1, at its first cycle. -/
def Obligations.CycleOnBusyLinkOrBusFaults : Prop :=
  ∀ (i : Instr) (s : State), HostServed s → makesCycle s.cfg i = true → s.initialised = true →
    (s.linkBusy = true → exec i s = .next ((State.waits 2 s).raise .linkReentry)) ∧
    (s.linkBusy = false → (s.busen = true ∨ s.acked = true) →
      exec i s = .next ((State.waits 2 s).raise .busContention))

/-- R214, R216, R218, R217: a video command outside VR raises BAD_VIDEO_ADDR, whatever the bus is.
(`State.spend` counts the micro-step off a bounded share, R351.) -/
def Obligations.VideoCommandOutsideRegionFaults : Prop :=
  ∀ (s : State) (a : Addr) (d : Byte), ¬ HostDenied s → s.initialised = true →
    (a.toNat < s.cfg.videoBase.toNat ∨ s.cfg.videoBase.toNat + s.cfg.videoSize ≤ a.toNat) →
    exec (.vxl a) s = .next (s.others.spend.raise .badVideoAddr) ∧
    exec (.vwrb a d) s = .next (s.others.spend.raise .badVideoAddr) ∧
    exec (.vrdb a) s = .next (s.others.spend.raise .badVideoAddr)

/-- R282: SARCH naming another architecture while Running raises ARCH_SWITCH_WHILE_RUNNING before any
write. (`State.spend` counts the micro-step off a bounded share, R351.) -/
def Obligations.ArchSwitchWhileRunningFaults : Prop :=
  ∀ (s : State) (x : Arch), ¬ HostDenied s → s.initialised = true → s.runstate = .running →
    x ≠ s.arch → exec (.sarch x) s = .next (s.others.spend.raise .archSwitchWhileRunning)

/-! ### Invariants of the whole machine -/

/-- The invariant holds at reset and in every power-on state with a canonical memory. -/
def Obligations.PowerOnMeetsInvariant : Prop :=
  MachineInv State.reset ∧ ∀ s : State, PowerOn s → Memory.wf s.mem = true → MachineInv s

/-- R291, R37, R34: every step keeps the invariant, from every state that meets it. Inside a command
whose host is denied (R351) the invariant says only what holds at every point of the interleaving. -/
def Obligations.StepKeepsMachineInvariant : Prop :=
  ∀ s t : State, MachineInv s → step s = .next t → MachineInv t

/-- R306, R80, R140: after INIT, at every point of the history a step adds, ACK = 1 implies BUSEN = 0,
a host cycle has both 0, a guest writes only with BUSEN = 1 and the card only with ACK = 1. -/
def Obligations.HistoryRespectsBusOwnership : Prop :=
  ∀ s t : State, MachineInv s → s.initialised = true → step s = .next t →
    ∃ ev, t.hist = s.hist ++ ev ∧ busReplay ev s.busen s.acked = some (t.busen, t.acked)

/-- R362: a step that starts with the tick disarmed adds no TickFire, and only adds to the history
(R49). -/
def Obligations.NoTickFiresWhileDisarmed : Prop :=
  ∀ s t : State, step s = .next t → ∃ ev, t.hist = s.hist ++ ev ∧
    (s.tickArmed = false → Event.tickFire ∉ ev)

/-- R290: RUNSTATE becomes Running only by RUN and Halted only by INIT, HRST and STOP. -/
def Obligations.RunstateChangesOnlyByLifecycle : Prop :=
  ∀ (i : Instr) (s t : State), exec i s = .next t → t.runstate ≠ s.runstate →
    (i = .run ∧ t.runstate = .running) ∨
    ((i = .init ∨ i = .hrst ∨ i = .stop) ∧ t.runstate = .halted)

/-! ### The Bus Link (41_bus_link) -/

/-- R150, R141: WRB with the bus free. -/
def Obligations.WrbStoresItsByte : Prop :=
  ∀ (s : State) (a : Addr) (d : Byte), CanCycle s → ∃ t, exec (.wrb a d) s = .next t ∧
    Completed s t ∧
    (∀ b, t.memAt b = if b = a ∧ inRam s.cfg a = true then d else s.memAt b) ∧
    hostLog t.hist = hostLog s.hist ++ [.cyc .write a d] ∧
    t.srAddr = a ∧ t.srData = d ∧ t.frameOut = frame24 s.cfg.frameOrder a d ∧
    t.aoe = false ∧ t.rwn = true ∧ t.sclk = false ∧ t.linkBusy = false

/-- R152, R142: RDB with the bus free. The value is Mem[A] in RAM_SET, and any byte elsewhere. -/
def Obligations.RdbReadsItsByte : Prop :=
  ∀ (s : State) (a : Addr), CanCycle s → ∃ t v, exec (.rdb a) s = .next t ∧ Completed s t ∧
    (inRam s.cfg a = true → v = s.memAt a) ∧ t.q = v.setWidth 16 ∧
    (∀ b, t.memAt b = s.memAt b) ∧
    hostLog t.hist = hostLog s.hist ++ [.cyc .read a v] ∧
    t.srAddr = a ∧ t.srData = v ∧ t.frameOut = frame16 s.cfg.frameOrder a ∧
    t.frameIn = serialBits s.cfg.frameOrder 8 v.toNat ∧
    t.aoe = false ∧ t.rwn = s.rwn ∧ t.latch = false ∧ t.sclk = false ∧ t.linkBusy = false

/-- R154: the round-trip law. -/
def Obligations.WriteThenReadGivesTheByte : Prop :=
  ∀ (s : State) (a : Addr) (v : Byte), CanCycle s → inRam s.cfg a = true →
    ∃ t u, exec (.wrb a v) s = .next t ∧ exec (.rdb a) t = .next u ∧ u.q = v.setWidth 16

/-- R124: the bytes a write cycle stores and the value a read cycle returns do not depend on
FRAME_ORDER. -/
def Obligations.FrameOrderIsInvisibleToCommands : Prop :=
  ∀ (s : State) (o : FrameOrder) (a : Addr) (v : Byte), CanCycle s →
    (∃ t u, exec (.wrb a v) s = .next t ∧
      exec (.wrb a v) { s with cfg := { s.cfg with frameOrder := o } } = .next u ∧
      ∀ b, u.memAt b = t.memAt b) ∧
    (∃ t u, exec (.rdb a) s = .next t ∧
      exec (.rdb a) { s with cfg := { s.cfg with frameOrder := o } } = .next u ∧ u.q = t.q)

/-- R121, R122, R123: the bits of a write frame, the address frame of a read cycle and the byte
assembled from the bits read back, in both orders. -/
def Obligations.FrameBitsInBothOrders : Prop :=
  ∀ (a : Addr) (d : Byte),
    frame24 .msbFirst a d = (List.range 16).map (fun i => a.getLsbD (15 - i)) ++
      (List.range 8).map (fun i => d.getLsbD (7 - i)) ∧
    frame24 .lsbFirst a d = (List.range 16).map (fun i => a.getLsbD i) ++
      (List.range 8).map (fun i => d.getLsbD i) ∧
    frame16 .msbFirst a = (List.range 16).map (fun i => a.getLsbD (15 - i)) ∧
    frame16 .lsbFirst a = (List.range 16).map (fun i => a.getLsbD i) ∧
    assembleBits .msbFirst ((List.range 8).map (fun i => d.getLsbD (7 - i))) = d.toNat ∧
    assembleBits .lsbFirst ((List.range 8).map (fun i => d.getLsbD i)) = d.toNat

/-! ### The Memory Access Facade (42_memory_facade) -/

/-- R171, R172, R75: WRW stores the low byte at A and the high byte at A +16 1. -/
def Obligations.WrwStoresLittleEndianWord : Prop :=
  ∀ (s : State) (a : Addr) (d : Word16), CanCycle s → ∃ t, exec (.wrw a d) s = .next t ∧
    Completed s t ∧
    (inRam s.cfg a = true → t.memAt a = d.extractLsb' 0 8) ∧
    (inRam s.cfg (a + 1#16) = true → t.memAt (a + 1#16) = d.extractLsb' 8 8) ∧
    hostLog t.hist = hostLog s.hist ++
      [.cyc .write a (d.extractLsb' 0 8), .cyc .write (a + 1#16) (d.extractLsb' 8 8)]

/-- R175, R176: RDW gives low + 256 × high, the low byte read first. -/
def Obligations.RdwReadsLittleEndianWord : Prop :=
  ∀ (s : State) (a : Addr), CanCycle s → ∃ t lo hi, exec (.rdw a) s = .next t ∧ Completed s t ∧
    (inRam s.cfg a = true → lo = s.memAt a) ∧
    (inRam s.cfg (a + 1#16) = true → hi = s.memAt (a + 1#16)) ∧
    t.q.toNat = lo.toNat + 256 * hi.toNat ∧
    hostLog t.hist = hostLog s.hist ++ [.cyc .read a lo, .cyc .read (a + 1#16) hi]

/-- R173, R174: WRL stores four bytes, least significant first, at sequential addresses. -/
def Obligations.WrlStoresLittleEndianLong : Prop :=
  ∀ (s : State) (a : Addr) (d : Word32), CanCycle s → ∃ t, exec (.wrl a d) s = .next t ∧
    Completed s t ∧
    (∀ i : Nat, i < 4 → inRam s.cfg (a + BitVec.ofNat 16 i) = true →
      t.memAt (a + BitVec.ofNat 16 i) = d.extractLsb' (8 * i) 8) ∧
    hostLog t.hist = hostLog s.hist ++ (List.range 4).map
      (fun i => .cyc .write (a + BitVec.ofNat 16 i) (d.extractLsb' (8 * i) 8))

/-- R177, R178: WRT stores the text and a zero byte after it, in N + 1 cycles. -/
def Obligations.WrtStoresTextAndTerminator : Prop :=
  ∀ (s : State) (a : Addr) (text : List Byte), CanCycle s → text.length < 65536 →
    ∃ t, exec (.wrt a text) s = .next t ∧ Completed s t ∧
    (∀ i : Nat, i ≤ text.length → inRam s.cfg (a + BitVec.ofNat 16 i) = true →
      t.memAt (a + BitVec.ofNat 16 i) = text.getD i 0x00#8) ∧
    hostLog t.hist = hostLog s.hist ++ (List.range (text.length + 1)).map
      (fun i => .cyc .write (a + BitVec.ofNat 16 i) (text.getD i 0x00#8))

/-- R180, R181, R182: RDS stops at the first zero byte with QT = true, and without one in N bytes gives
all N with QT = false. -/
def Obligations.RdsReadsUpToTerminator : Prop :=
  ∀ (s : State) (a : Addr) (n : Word16), CanCycle s →
    (∀ j : Nat, j < n.toNat → inRam s.cfg (a + BitVec.ofNat 16 j) = true) →
    (∀ k : Nat, k < n.toNat → s.memAt (a + BitVec.ofNat 16 k) = 0x00#8 →
      (∀ j : Nat, j < k → s.memAt (a + BitVec.ofNat 16 j) ≠ 0x00#8) →
      ∃ t, exec (.rds a n) s = .next t ∧ Completed s t ∧ t.qt = true ∧
        t.qbuf = (List.range k).map (fun j => s.memAt (a + BitVec.ofNat 16 j)) ∧
        hostLog t.hist = hostLog s.hist ++ (List.range (k + 1)).map
          (fun j => .cyc .read (a + BitVec.ofNat 16 j) (s.memAt (a + BitVec.ofNat 16 j)))) ∧
    ((∀ j : Nat, j < n.toNat → s.memAt (a + BitVec.ofNat 16 j) ≠ 0x00#8) →
      ∃ t, exec (.rds a n) s = .next t ∧ Completed s t ∧ t.qt = false ∧
        t.qbuf = (List.range n.toNat).map (fun j => s.memAt (a + BitVec.ofNat 16 j)) ∧
        hostLog t.hist = hostLog s.hist ++ (List.range n.toNat).map
          (fun j => .cyc .read (a + BitVec.ofNat 16 j) (s.memAt (a + BitVec.ofNat 16 j))))

/-- R180, R181: RDS over any addresses. The bytes read are Mem's in RAM_SET and any byte elsewhere; the
first zero byte, drawn or stored, ends the string. An RDS whose host is denied inside it (R351), past the
INITIALISED check, leaves in QBUF the bytes read so far, none of them zero, with QT = false; one that has not
come so far, or whose first cycle is to raise (R346), leaves both as they were, the latter by the model's
reading (log 14). -/
def Obligations.RdsStopsAtFirstZeroRead : Prop :=
  (∀ (s : State) (a : Addr) (n : Word16), CanCycle s →
    ∃ t got, exec (.rds a n) s = .next t ∧ Completed s t ∧ got.length ≤ n.toNat ∧
      (∀ j : Nat, j < got.length → inRam s.cfg (a + BitVec.ofNat 16 j) = true →
        got.getD j 0x00#8 = s.memAt (a + BitVec.ofNat 16 j)) ∧
      hostLog t.hist = hostLog s.hist ++ (List.range got.length).map
        (fun j => .cyc .read (a + BitVec.ofNat 16 j) (got.getD j 0x00#8)) ∧
      0x00#8 ∉ t.qbuf ∧
      ((t.qt = true ∧ got = t.qbuf ++ [0x00#8]) ∨
        (t.qt = false ∧ got = t.qbuf ∧ got.length = n.toNat))) ∧
  ∀ (s t : State) (a : Addr) (n : Word16), exec (.rds a n) s = .next t → CutShort s t →
    ∃ got : List Byte, got.length ≤ n.toNat ∧ 0x00#8 ∉ got ∧
      (∀ j : Nat, j < got.length → inRam s.cfg (a + BitVec.ofNat 16 j) = true →
        got.getD j 0x00#8 = s.memAt (a + BitVec.ofNat 16 j)) ∧
      hostLog t.hist = hostLog s.hist ++ (List.range got.length).map
        (fun j => .cyc .read (a + BitVec.ofNat 16 j) (got.getD j 0x00#8)) ∧
      (if ¬ HostDenied s ∧ s.initialised = true ∧ s.linkBusy = false ∧ s.busFree = true then
        t.qbuf = got ∧ t.qt = false
      else got = [] ∧ KeepsString s t)

/-- R180, R181: RDS with N = 0 makes no cycle, so it completes whatever the bus is, with QBUF empty and
QT = false. That SDI, among the link's lines, keeps its level is the model's choice (log 24). -/
def Obligations.RdsOfLengthZeroMakesNoCycle : Prop :=
  ∀ (s : State) (a : Addr), HostServed s → s.initialised = true →
    ∃ t, exec (.rds a 0#16) s = .next t ∧
    Completed s t ∧ t.qbuf = [] ∧ t.qt = false ∧ hostLog t.hist = hostLog s.hist ∧
    KeepsLink s t ∧ t.linkBusy = s.linkBusy

/-- The frame of the storing commands WRB, WRW, WRL, WRT and VWRB: every field but the link, CPOS,
FAULT, H and the stored bytes is kept, whether the command completes, faults, or is cut short with its
host denied (R351). A byte outside RAM_SET is never stored. That a write cycle leaves SDI is the model's
choice (log 24). -/
def Obligations.StoreCommandsKeepTheRest : Prop :=
  ∀ (i : Instr) (s t : State), isStore i = true → exec i s = .next t →
    ∃ k, KeepsRest k s t ∧ KeepsResults s t ∧
      t.latch = s.latch ∧ t.sdi = s.sdi ∧ t.byteDraws = s.byteDraws ∧ EndsPrecisely k s t ∧
      ∀ b, (b ∉ storedAddrs s.cfg i ∨ inRam s.cfg b = false) →
        t.memAt b = (State.waits k s).memAt b

/-- The frame of the reading commands RDB, RDW, RDS, VXL and VRDB: no byte of memory changes, RWN never
moves, and of the results only the command's own are written, and none if it does not complete, but for the
bytes an RDS cut short has read. That SDI, among the link's lines, keeps its level in VXL is the model's
choice (log 24). -/
def Obligations.ReadCommandsKeepTheRest : Prop :=
  ∀ (i : Instr) (s t : State), isRead i = true → exec i s = .next t →
    ∃ k, KeepsRest k s t ∧ t.rwn = s.rwn ∧ EndsPrecisely k s t ∧
      (Completed s t ∨ KeepsResults s t ∨ ((∃ a n, i = .rds a n) ∧ CutShort s t)) ∧
      (∀ a n, i = .rds a n → t.q = s.q) ∧ ((∀ a n, i ≠ .rds a n) → KeepsString s t) ∧
      (∀ a, i = .vxl a → KeepsLink s t) ∧
      ∀ b, t.memAt b = (State.waits k s).memAt b

/-! ### The video translator and demux (43_video_demux) -/

/-- R214, R212, R213: VXL inside VR completes, with no cycle, and gives v + bias + 2 × row − 2 modulo
65536, row 0 included. The formula is the source's; the reduction modulo 2^16 is the spec's own reading
(R212, 92_eei_decisions D28). -/
def Obligations.VxlTranslatesModulo65536 : Prop :=
  ∀ (s : State) (a : Addr), HostServed s → s.initialised = true → s.cfg.videoBase.toNat ≤ a.toNat →
    a.toNat < s.cfg.videoBase.toNat + s.cfg.videoSize →
    ∃ t, exec (.vxl a) s = .next t ∧ Completed s t ∧
      t.q.toNat = (a.toNat + s.cfg.videoBias.toNat +
        2 * ((a.toNat - s.cfg.videoBase.toNat) / 38) + 65536 - 2) % 65536 ∧
      hostLog t.hist = hostLog s.hist

/-- R216: VWRB inside VR is one write cycle at the translated address. -/
def Obligations.VwrbStoresAtTranslatedAddress : Prop :=
  ∀ (s : State) (a p : Addr) (d : Byte), CanCycle s → s.cfg.videoBase.toNat ≤ a.toNat →
    a.toNat < s.cfg.videoBase.toNat + s.cfg.videoSize →
    p.toNat = (a.toNat + s.cfg.videoBias.toNat +
      2 * ((a.toNat - s.cfg.videoBase.toNat) / 38) + 65536 - 2) % 65536 →
    ∃ t, exec (.vwrb a d) s = .next t ∧ Completed s t ∧
      (∀ b, t.memAt b = if b = p ∧ inRam s.cfg p = true then d else s.memAt b) ∧
      hostLog t.hist = hostLog s.hist ++ [.cyc .write p d]

/-- R218: VRDB inside VR is one read cycle at the translated address. -/
def Obligations.VrdbReadsTranslatedAddress : Prop :=
  ∀ (s : State) (a p : Addr), CanCycle s → s.cfg.videoBase.toNat ≤ a.toNat →
    a.toNat < s.cfg.videoBase.toNat + s.cfg.videoSize →
    p.toNat = (a.toNat + s.cfg.videoBias.toNat +
      2 * ((a.toNat - s.cfg.videoBase.toNat) / 38) + 65536 - 2) % 65536 →
    ∃ t v, exec (.vrdb a) s = .next t ∧ Completed s t ∧
      (inRam s.cfg p = true → v = s.memAt p) ∧ t.q = v.setWidth 16 ∧
      hostLog t.hist = hostLog s.hist ++ [.cyc .read p v]

/-- R221: virtual byte k of row r lands 40 r + k past VIDEO_BASE + VIDEO_BIAS − 2, so every row has
stride 40, row 0 included. Where the unwrapped image fits in 65536 bytes the map is injective on VR,
and no virtual address reaches a gap byte. -/
def Obligations.VideoMapHasStrideFortyAndGaps : Prop :=
  ∀ c : Config, c.videoBase.toNat + c.videoSize ≤ 65536 → 1 ≤ c.videoSize →
    (∀ r k : Nat, k < 38 → 38 * r + k < c.videoSize →
      xlate c (c.videoBase + BitVec.ofNat 16 (38 * r + k)) =
        c.videoBase + c.videoBias - 2#16 + BitVec.ofNat 16 (40 * r + k)) ∧
    (40 * ((c.videoSize - 1) / 38) + 38 ≤ 65536 →
      (∀ v w, inVideoRegion c v = true → inVideoRegion c w = true → xlate c v = xlate c w →
        v = w) ∧
      (∀ v (r g : Nat), inVideoRegion c v = true → (g = 38 ∨ g = 39) → 40 * r + g < 65536 →
        xlate c v ≠ c.videoBase + c.videoBias - 2#16 + BitVec.ofNat 16 (40 * r + g)))

/-! ### The CPU Lifecycle Controller (44_cpu_lifecycle) -/

/-- R240 to R247, R51: INIT, from any state in which it has not completed. Its events, Line(INT,0) among
them, come in order with only other agents' events between them, and with no move of another agent they are
all the events it adds. -/
def Obligations.InitSetsUpTheEngine : Prop :=
  ∀ s : State, HostServed s → s.initialised = false → ∃ t, exec .init s = .next t ∧ Completed s t ∧
    t.arch = (Arch.ofCode s.setting0).getD s.cfg.defaultArch ∧
    t.speed = (Speed.ofCode s.setting1).getD s.cfg.defaultSpeed ∧
    t.setting0 = t.arch.code ∧ t.setting1 = t.speed.code ∧
    t.runstate = .halted ∧ t.tickArmed = false ∧ t.ie = true ∧ t.initialised = true ∧
    t.doorbellIe = (s.cfg.hasExpansion || s.doorbellIe) ∧ t.arbPhase = .idle ∧
    t.arbWasRunning = false ∧
    t.archsel = archLevel t.arch ∧ t.speedsel = speedLevel t.speed ∧ t.busen = false ∧
    t.resetLine = false ∧ t.int = false ∧ t.acked = false ∧
    t.aoe = false ∧ t.rwn = true ∧ t.latch = false ∧ t.sclk = false ∧ t.sdo = false ∧
    hostLog t.hist = hostLog s.hist ++
      (if s.setting0.toNat ≤ 1 then [] else [.setW .architecture s.cfg.defaultArch.code]) ++
      (if s.setting1.toNat ≤ 1 then [] else [.setW .speed s.cfg.defaultSpeed.code]) ++
      [.line .busen false, .line .reset false] ++
      (if s.cfg.hasExpansion then [.line .ack false] else []) ++
      [.line .archsel (archLevel t.arch), .line .speedsel (speedLevel t.speed)] ∧
    (NoMoves s → t.mem = s.mem ∧ t.doorbellLatch = false ∧ t.dbPending = false) ∧
    ∃ ev, t.hist = s.hist ++ ev ∧ InOrder (initEvents s t.arch t.speed) ev ∧
      (NoMoves s → ev = initEvents s t.arch t.speed)

/-- The frame of INIT: operands, results, the link's registers and INITIALISED-independent marks; the
input lines are as the other agents' moves at its boundaries leave them. That SDI keeps its level is the
model's choice (log 24). -/
def Obligations.InitKeepsTheRest : Prop :=
  ∀ s t : State, exec .init s = .next t →
    KeepsOperands s t ∧ KeepsResults s t ∧ t.refused = s.refused ∧ t.linkBusy = s.linkBusy ∧
    t.srAddr = s.srAddr ∧ t.srData = s.srData ∧ t.sdi = s.sdi ∧ t.byteDraws = s.byteDraws ∧
    t.frameOut = s.frameOut ∧ t.frameIn = s.frameIn ∧
    (s.cfg.hasExpansion = false → t.ack = s.ack) ∧
    (NoMoves s → t.req = s.req ∧ t.dbell = s.dbell) ∧
    (∃ k, SameInputs (State.waits k s) t) ∧
    (NoBusWrites s → ∀ b, t.memAt b = s.memAt b)

/-- R250 to R255: HRST from any state after INIT. -/
def Obligations.HrstResetsBothGuests : Prop :=
  ∀ s : State, HostServed s → s.initialised = true → ∃ t, exec .hrst s = .next t ∧ Completed s t ∧
    t.runstate = .halted ∧ t.tickArmed = false ∧ t.archsel = archLevel s.arch ∧
    t.busen = false ∧ t.resetLine = false ∧
    hostLog t.hist = hostLog s.hist ++
      [.line .reset true, .delay .resetPulse, .line .reset false] ++
      guestPulseEvents .arch6502 ++ guestPulseEvents .archZ80 ++
      [.line .archsel (archLevel s.arch)]

/-- R260 to R264, R266: RUN with the bus free. The boot bytes stand in Mem if no agent writes it. -/
def Obligations.RunBootsTheSelectedGuest : Prop :=
  ∀ s : State, CanCycle s → ∃ t, exec .run s = .next t ∧ Completed s t ∧
    t.runstate = .running ∧ t.resetLine = false ∧ t.busen = true ∧
    t.tickArmed = (s.cfg.tickBuildEnabled || s.tickArmed) ∧
    ∃ writes : List (Addr × Byte),
      (s.arch = .arch6502 → writes =
        [(s.cfg.mbxOutFlag, 0x00#8), (s.cfg.mbxOutData, 0x00#8), (s.cfg.mbxInFlag, 0x00#8)] ++
        bytesFrom s.cfg.p6502IrqStubAddr s.cfg.p6502IrqStub ++
        [(s.cfg.p6502ResetVec, s.cfg.codeLoad.extractLsb' 0 8),
          (s.cfg.p6502ResetVec + 1#16, s.cfg.codeLoad.extractLsb' 8 8)]) ∧
      (s.arch = .archZ80 → writes =
        [(s.cfg.mbxOutFlag, 0x00#8), (s.cfg.mbxOutData, 0x00#8), (s.cfg.mbxInFlag, 0x00#8)] ++
        bytesFrom 0x0066#16 s.cfg.z80NmiStub ++
        (if s.cfg.codeLoad = 0x0000#16 then [] else
          [(0x0000#16, s.cfg.z80JpOpcode), (0x0001#16, s.cfg.codeLoad.extractLsb' 0 8),
            (0x0002#16, s.cfg.codeLoad.extractLsb' 8 8)])) ∧
      hostLog t.hist = hostLog s.hist ++ writeEvents writes ++
        [.line .reset true, .delay .resetPulse, .line .reset false, .line .busen true] ∧
      (NoBusWrites s → ∀ b, t.memAt b = byteAfter s writes b)

/-- R270, R271, R362: STOP from any state after INIT. Its disarm comes right after its second boundary,
and from there on no tick fires. -/
def Obligations.StopHaltsTheGuest : Prop :=
  ∀ s : State, HostServed s → s.initialised = true → ∃ t, exec .stop s = .next t ∧ Completed s t ∧
    t.runstate = .halted ∧ t.tickArmed = false ∧ t.busen = false ∧ t.resetLine = false ∧
    hostLog t.hist = hostLog s.hist ++
      [.line .reset true, .line .busen false, .delay .stopSettle, .line .reset false] ∧
    ∃ after, t.hist = (State.waits 2 s).hist ++ after ∧ Event.tickFire ∉ after

/-- R280, R281: SARCH while Halted, or naming the architecture ARCH already holds. -/
def Obligations.SarchSelectsTheArchitecture : Prop :=
  ∀ (s : State) (x : Arch), HostServed s → s.initialised = true →
    (s.runstate = .halted ∨ x = s.arch) →
    ∃ t, exec (.sarch x) s = .next t ∧ Completed s t ∧ t.arch = x ∧ t.setting0 = x.code ∧
      t.archsel = archLevel x ∧
      hostLog t.hist = hostLog s.hist ++ [.setW .architecture x.code, .line .archsel (archLevel x)]

/-- R284: SSPD in either run state. -/
def Obligations.SspdSelectsTheSpeed : Prop :=
  ∀ (s : State) (x : Speed), HostServed s → s.initialised = true →
    ∃ t, exec (.sspd x) s = .next t ∧ Completed s t ∧ t.speed = x ∧ t.setting1 = x.code ∧
      t.speedsel = speedLevel x ∧
      hostLog t.hist = hostLog s.hist ++ [.setW .speed x.code, .line .speedsel (speedLevel x)]

/-- The frame of HRST, RUN and STOP (R256, R403), whether the command completes, faults, or is cut short
with its host denied (R351): modes, settings, results, ACK and SPEEDSEL are kept; HRST and STOP leave the
link alone, RUN and STOP the select line. The inputs and the doorbell state are as the other agents' moves at
its boundaries leave them, only a tick changes INT, and of memory RUN rewrites the bytes of R261 that are in
RAM_SET and nothing else, HRST and STOP nothing. That SDI keeps its level is the model's choice (log 24). -/
def Obligations.GuestControlCommandsKeepTheRest : Prop :=
  ∀ (i : Instr) (s t : State), (i = .hrst ∨ i = .run ∨ i = .stop) → exec i s = .next t →
    KeepsOperands s t ∧ KeepsResults s t ∧ KeepsModes s t ∧ KeepsArbiter s t ∧
    KeepsSettings s t ∧ t.speedsel = s.speedsel ∧ t.ack = s.ack ∧
    t.latch = s.latch ∧ t.sdi = s.sdi ∧ t.byteDraws = s.byteDraws ∧
    (i ≠ .run → KeepsLink s t) ∧ (i ≠ .hrst → t.archsel = s.archsel) ∧
    (NoMoves s → t.req = s.req ∧ t.dbell = s.dbell ∧ t.doorbellLatch = s.doorbellLatch ∧
      t.dbPending = s.dbPending ∧ t.int = s.int ∧ t.edgeDraws = s.edgeDraws) ∧
    (∃ k, SameInputs (State.waits k s) t ∧ t.doorbellLatch = (State.waits k s).doorbellLatch ∧
      t.dbPending = (State.waits k s).dbPending ∧ t.edgeDraws = (State.waits k s).edgeDraws) ∧
    (∃ ev, t.hist = s.hist ++ ev ∧ (Event.tickFire ∉ ev → t.int = s.int)) ∧
    (NoBusWrites s → ∀ b,
      (i = .run → b ∉ (bootBytes s.cfg s.arch).map Prod.fst ∨ inRam s.cfg b = false) →
      t.memAt b = s.memAt b)

/-- The frame of SARCH and SSPD: everything but the mode, its settings byte, its select line, CPOS,
FAULT and H is kept. That SDI, among the link's lines, keeps its level is the model's choice (log 24). -/
def Obligations.SelectorCommandsKeepTheRest : Prop :=
  ∀ (i : Instr) (s t : State), ((∃ x, i = .sarch x) ∨ ∃ x, i = .sspd x) → exec i s = .next t →
    ∃ k, KeepsOperands s t ∧ KeepsResults s t ∧ KeepsArbiter s t ∧ KeepsRun s t ∧ KeepsLink s t ∧
      t.ie = s.ie ∧ t.doorbellIe = s.doorbellIe ∧ t.initialised = s.initialised ∧
      t.refused = s.refused ∧ t.linkBusy = s.linkBusy ∧ t.resetLine = s.resetLine ∧
      t.busen = s.busen ∧ t.ack = s.ack ∧
      ((∃ x, i = .sarch x) →
        t.speed = s.speed ∧ t.setting1 = s.setting1 ∧ t.speedsel = s.speedsel) ∧
      ((∃ x, i = .sspd x) →
        t.arch = s.arch ∧ t.setting0 = s.setting0 ∧ t.archsel = s.archsel) ∧
      SameAsync (State.waits k s) t ∧ ∀ b, t.memAt b = (State.waits k s).memAt b

/-! ### The Expansion Bus Arbiter (45_expansion_arbiter) -/

/-- R301, R314: without the port, or with REQ = 0 at the sample and DOORBELL_LATCH = 0 at the test,
POLL completes and changes nothing but CPOS. (`State.spend` counts the micro-step off a bounded share,
R351.) -/
def Obligations.PollWithNothingToDo : Prop :=
  ∀ s : State, s.initialised = true → s.arbPhase = .idle →
    (¬ HostDenied s → s.cfg.hasExpansion = false → exec .poll s = .next s.others.spend.complete) ∧
    (HostServed s → s.cfg.hasExpansion = true → (State.waits 2 s).req = false →
      (State.waits 3 s).doorbellLatch = false → exec .poll s = .next (State.waits 3 s).complete)

/-- R303, R302: REQ = 1 at the sample. The guest is paused, not reset, if it runs, then ACK is
asserted, and RUNSTATE stays as it is. The link is kept, and the input lines, the doorbell state and INT
are as the other agents' moves at the grant's boundaries leave them. That SDI, among the link's lines, keeps
its level is the model's choice (log 24). That POLL answers a next state inside the handshake, with
ARB_PHASE = Acked and CPOS not counted, is the model's choice (log 11). -/
def Obligations.PollGrantsTheBus : Prop :=
  ∀ s : State, HostServed s → s.initialised = true → s.arbPhase = .idle → s.cfg.hasExpansion = true →
    (State.waits 2 s).req = true →
    ∃ t, exec .poll s = .next t ∧ t.cpos = s.cpos ∧ t.fault = s.fault ∧ t.arbPhase = .acked ∧
      t.arbWasRunning = s.isRunning ∧ t.ack = true ∧ t.runstate = s.runstate ∧
      t.resetLine = s.resetLine ∧ t.busen = (s.busen && !s.isRunning) ∧
      hostLog t.hist = hostLog s.hist ++
        (if s.isRunning then [.line .busen false] else []) ++ [.line .ack true] ∧
      SameAsync (State.waits (if s.isRunning then 6 else 5) s) t ∧ KeepsLink s t

/-- R304: while the handshake is held and REQ = 1 the host has no step, so only the other agents move.
That a step in a held handshake is POLL, one look at REQ each, is the model's choice (log 11). A host
that is denied (R351) has no step there whatever REQ is. -/
def Obligations.PollHoldsWhileRequested : Prop :=
  ∀ s : State, s.fault = none → s.refused = none → s.arbPhase = .acked →
    step s = exec .poll s ∧ (s.others.req = true ∨ HostDenied s → step s = .next s.others)

/-- R305, R304, R310 to R313: once REQ = 0 the handshake ends: ACK is released, then the guest resumes
if it was running, and part 2 follows, which tests the latch as it stands after the boundaries before
it. A delivery drives INT to 1 and back, and writes 0x01 to MBX_EXP_FLAG and nothing else; without one no
byte of memory changes, and without a guest to resume BUSEN stays as it was. With no move of another agent
after the look, the events named are all the events of the rest of the command. -/
def Obligations.PollReleasesTheBus : Prop :=
  ∀ (s : State) (k : Nat) (delivers : Bool), HostServed s → s.arbPhase = .acked → s.others.req = false →
    s.linkBusy = false → k = (if s.arbWasRunning then 6 else 5) →
    delivers = ((State.waits k s).doorbellLatch && s.isRunning) →
    ∃ t ev, exec .poll s = .next t ∧ Completed s t ∧ t.arbPhase = .idle ∧
      t.arbWasRunning = false ∧ t.ack = false ∧ t.doorbellLatch = false ∧
      t.busen = (s.busen || s.arbWasRunning || delivers) ∧ (delivers = true → t.int = false) ∧
      hostLog t.hist = hostLog s.hist ++ [.line .ack false] ++
        (if s.arbWasRunning then [.line .busen true] else []) ++
        (if delivers then
          [.line .busen false, .cyc .write s.cfg.mbxExpFlag 0x01#8, .line .busen true,
            .intPulse .doorbell]
        else []) ∧
      t.hist = s.hist ++ ev ∧
      InOrder ([.line .ack false] ++ (if s.arbWasRunning then [.line .busen true] else []) ++
        (if delivers then deliveryEvents s.cfg else [])) ev ∧
      (NoMoves s.others → t.hist = s.others.hist ++ [.line .ack false] ++
        (if s.arbWasRunning then [.line .busen true] else []) ++
        (if delivers then deliveryEvents s.cfg else [])) ∧
      (NoBusWrites s → ∀ b, t.memAt b =
        if delivers = true ∧ b = s.cfg.mbxExpFlag ∧ inRam s.cfg b = true then 0x01#8
        else s.memAt b)

/-- R311, R313: a set latch with a running guest: pause, one cycle writing 0x01 to MBX_EXP_FLAG,
resume, INT pulse, clear. The host's six events come in this order with only other agents' events between
them, and with no move of another agent they are all the events of the command. -/
def Obligations.PollDeliversDoorbell : Prop :=
  ∀ s : State, HostServed s → s.initialised = true → s.arbPhase = .idle → s.cfg.hasExpansion = true →
    s.linkBusy = false → s.acked = false → s.runstate = .running → (State.waits 2 s).req = false →
    (State.waits 3 s).doorbellLatch = true →
    ∃ t, exec .poll s = .next t ∧ Completed s t ∧ t.doorbellLatch = false ∧ t.busen = true ∧
      t.int = false ∧
      hostLog t.hist = hostLog s.hist ++ [.line .busen false,
        .cyc .write s.cfg.mbxExpFlag 0x01#8, .line .busen true, .intPulse .doorbell] ∧
      (∃ e0 e1 e2 e3 e4 e5 e6, t.hist = s.hist ++ e0 ++ [.line .busen false] ++ e1 ++
          [.cyc .write s.cfg.mbxExpFlag 0x01#8] ++ e2 ++ [.line .busen true] ++ e3 ++
          [.line .int true] ++ e4 ++ [.line .int false] ++ e5 ++ [.intPulse .doorbell] ++ e6 ∧
        ∀ e ∈ [e0, e1, e2, e3, e4, e5, e6], hostLog e = []) ∧
      (NoMoves s → t.hist = s.hist ++ [.line .busen false,
        .cyc .write s.cfg.mbxExpFlag 0x01#8, .line .busen true, .line .int true, .line .int false,
        .intPulse .doorbell]) ∧
      (NoBusWrites s → ∀ b, t.memAt b =
        if b = s.cfg.mbxExpFlag ∧ inRam s.cfg b = true then 0x01#8 else s.memAt b)

/-- R312, R313: a set latch with a halted guest is cleared and nothing else happens. -/
def Obligations.PollDropsDoorbellWhileHalted : Prop :=
  ∀ s : State, HostServed s → s.initialised = true → s.arbPhase = .idle → s.cfg.hasExpansion = true →
    s.runstate = .halted → (State.waits 2 s).req = false →
    (State.waits 3 s).doorbellLatch = true →
    exec .poll s = .next { (State.waits 4 s) with doorbellLatch := false, cpos := s.cpos + 1 }

/-- R315: POLL cannot fault after INIT. -/
def Obligations.PollNeverFaults : Prop :=
  ∀ s : State, MachineInv s → s.initialised = true → s.fault = none →
    ∃ t, exec .poll s = .next t ∧ t.fault = none

/-- The frame of POLL (R300): it writes only the arbiter's registers, BUSEN, ACK, INT, the latch,
MBX_EXP_FLAG and, only where its events hold its one cycle, the link. The inputs and the pending edge
are as the other agents' moves at its boundaries leave them. MBX_EXP_FLAG is written only where the
command's events hold the cycle that writes it, and only in RAM_SET. CPOS counts it only if it completes
(R22): a host given fewer micro-steps than it takes leaves CPOS and FAULT as before, and one given as many
or more leaves what a served host leaves (R351, log 26). That SDI keeps its level is the model's choice
(log 24). -/
def Obligations.PollKeepsTheRest : Prop :=
  ∀ s t : State, exec .poll s = .next t →
    KeepsOperands s t ∧ KeepsResults s t ∧ KeepsModes s t ∧ KeepsRun s t ∧ KeepsSettings s t ∧
    t.archsel = s.archsel ∧ t.speedsel = s.speedsel ∧ t.resetLine = s.resetLine ∧
    t.latch = s.latch ∧ t.sdi = s.sdi ∧ t.byteDraws = s.byteDraws ∧
    (NoMoves s → t.req = s.req ∧ t.dbell = s.dbell ∧ t.dbPending = s.dbPending) ∧
    (∃ k, SameInputs (State.waits k s) t ∧ t.dbPending = (State.waits k s).dbPending ∧
      t.edgeDraws = (State.waits k s).edgeDraws) ∧
    (Completed s t ∨ t.cpos = s.cpos) ∧
    (∀ n, s.hostShare = some n →
      (n < pollTurns s → s.linkBusy = false → (s.arbPhase = .idle → s.acked = false) →
        CutShort s t) ∧
      (pollTurns s ≤ n → exec .poll (s.setHostShare none) = .next (t.setHostShare none))) ∧
    (NoBusWrites s → ∀ b, b ≠ s.cfg.mbxExpFlag → t.memAt b = s.memAt b) ∧
    (∃ ev, t.hist = s.hist ++ ev ∧
      (Event.cyc .write s.cfg.mbxExpFlag 0x01#8 ∉ ev → KeepsLink s t) ∧ (NoBusWrites s →
      Event.cyc .write s.cfg.mbxExpFlag 0x01#8 ∉ ev ∨ inRam s.cfg s.cfg.mbxExpFlag = false →
      ∀ b, t.memAt b = s.memAt b))

/-! ### The other agents (60_exceptions) -/

/-- R361: the tick's step, when armed and unmasked, is one INT pulse with its events; else there is no
step. -/
def Obligations.TickPulsesInt : Prop :=
  ∀ s : State,
    (s.tickArmed = true → s.ie = true → s.move .tick = { s with
      int := false,
      hist := s.hist ++ [.tickFire, .line .int true, .line .int false, .intPulse .tick] }) ∧
    ((s.tickArmed = false ∨ s.ie = false) → s.move .tick = s)

/-- R365, R366, R367: a doorbell edge is latched, masked or ignored, and a pending edge is delivered
once IE = 1. With no edge pending, or with IE = 0, the delivery is no step (R350, R352). -/
def Obligations.DoorbellEdgeIsLatchedMaskedOrIgnored : Prop :=
  (∀ (s : State) (v : Bool), s.cfg.hasExpansion = true → s.dbell ≠ v →
    (s.doorbellIe = true → s.ie = true → s.move (.cardDbell v) =
      { s with dbell := v, hist := s.hist ++ [.dbEdge v], doorbellLatch := true }) ∧
    (s.doorbellIe = true → s.ie = false → s.cfg.maskedEdge = .lost → s.move (.cardDbell v) =
      { s with dbell := v, hist := s.hist ++ [.dbEdge v] }) ∧
    (s.doorbellIe = true → s.ie = false → s.cfg.maskedEdge = .deferred → s.move (.cardDbell v) =
      { s with dbell := v, hist := s.hist ++ [.dbEdge v], dbPending := true }) ∧
    (s.doorbellIe = true → s.ie = false → s.cfg.maskedEdge = .either →
      (s.move (.cardDbell v)).dbell = v ∧
      (s.move (.cardDbell v)).hist = s.hist ++ [.dbEdge v] ∧
      (s.move (.cardDbell v)).doorbellLatch = s.doorbellLatch ∧
      ((s.move (.cardDbell v)).dbPending = true ∨
        (s.move (.cardDbell v)).dbPending = s.dbPending) ∧
      s.move (.cardDbell v) = { s with
        dbell := v, hist := s.hist ++ [.dbEdge v],
        dbPending := (s.move (.cardDbell v)).dbPending,
        edgeDraws := (s.move (.cardDbell v)).edgeDraws }) ∧
    (s.doorbellIe = false → s.move (.cardDbell v) =
      { s with dbell := v, hist := s.hist ++ [.dbEdge v] })) ∧
  ∀ s : State,
    (s.dbPending = true → s.ie = true → s.move .doorbellDeliver =
      { s with doorbellLatch := true, dbPending := false }) ∧
    ((s.dbPending = false ∨ s.ie = false) → s.move .doorbellDeliver = s)

/-- R80, R370, R372: the card writes only while ACK = 1, the guest only while BUSEN = 1, and the write
changes its one byte and the history. The card's step on REQ changes the line and records Req(v) (R370);
without the expansion port the card has no step (R36, R368). That the byte is stored at an address outside
RAM_SET too is the model's choice (log 18), and that a card write is no step while ACK = 0 is an assumption
(log 23). -/
def Obligations.OnlyTheBusOwnerWritesMemory : Prop :=
  ∀ (s : State) (a b : Addr) (v : Byte),
    (s.busen = true → (s.move (.guestWrite a v)).memAt b = (if b = a then v else s.memAt b) ∧
      (s.move (.guestWrite a v)).hist = s.hist ++ [.gWrite a v]) ∧
    (s.busen = false → s.move (.guestWrite a v) = s) ∧
    (s.acked = true → (s.move (.cardWrite a v)).memAt b = (if b = a then v else s.memAt b) ∧
      (s.move (.cardWrite a v)).hist = s.hist ++ [.xWrite a v]) ∧
    (s.acked = false → s.move (.cardWrite a v) = s) ∧
    (∀ level : Bool, s.cfg.hasExpansion = true → s.req ≠ level →
      s.move (.cardReq level) = { s with req := level, hist := s.hist ++ [.req level] }) ∧
    (∀ level : Bool, s.cfg.hasExpansion = false → s.move (.cardReq level) = s ∧
      s.move (.cardDbell level) = s ∧ s.move (.cardWrite a v) = s)

/-- R77, R80, R352, R354: at a boundary the other agents change no register of the host, add no event
of the host, and while the bus is free change no byte of memory. That they leave SDI, among the link's
lines, is the model's choice (log 24). -/
def Obligations.OtherAgentsKeepHostState : Prop :=
  ∀ s : State,
    KeepsOperands s s.others ∧ KeepsResults s s.others ∧ KeepsModes s s.others ∧
    KeepsArbiter s s.others ∧ KeepsRun s s.others ∧ KeepsLines s s.others ∧
    KeepsSettings s s.others ∧ KeepsLink s s.others ∧ s.others.cpos = s.cpos ∧
    s.others.fault = s.fault ∧ hostLog s.others.hist = hostLog s.hist ∧
    (s.busFree = true → ∀ b, s.others.memAt b = s.memAt b)
end

