-- ==== Sys2Proof/Laws/Memory.lean ====
section
/-! SUPPORT. The laws of guest bus memory: a read after a write, other places, and the canonical form
every write keeps. -/

namespace Sys2Proof.Machine

theorem Memory.readAt_eraseAt (m : Memory) (n k : Nat) :
    Memory.readAt (Memory.eraseAt m n) k = if n = k then Memory.unlisted else Memory.readAt m k := by
  induction m with
  | nil => simp [Memory.eraseAt, Memory.readAt]
  | cons c rest ih =>
    obtain ⟨i, b⟩ := c
    by_cases h : i = n
    · subst h
      simp only [Memory.eraseAt, if_true, ih, Memory.readAt]
      split <;> rfl
    · simp only [Memory.eraseAt, if_neg h, Memory.readAt, ih]
      by_cases hk : i = k
      · subst hk
        simp [Ne.symm h]
      · simp [hk]

theorem Memory.readAt_insertAt (m : Memory) (n k : Nat) (v : Byte) (h : Memory.readAt m n = Memory.unlisted)
    (hn : ∀ c ∈ m, c.1 ≠ n) :
    Memory.readAt (Memory.insertAt m n v) k = if n = k then v else Memory.readAt m k := by
  induction m with
  | nil => simp [Memory.insertAt, Memory.readAt]
  | cons c rest ih =>
    obtain ⟨i, b⟩ := c
    have hi : i ≠ n := hn (i, b) (by simp)
    simp only [Memory.readAt, if_neg hi] at h
    have ih := ih h fun c hc => hn c (by simp [hc])
    by_cases hlt : i < n
    · simp only [Memory.insertAt, if_pos hlt, Memory.readAt, ih]
      by_cases hk : i = k
      · subst hk
        simp [Ne.symm hi]
      · simp [hk]
    · simp only [Memory.insertAt, if_neg hlt, Memory.readAt]

theorem Memory.eraseAt_ne (m : Memory) (n : Nat) : ∀ c ∈ Memory.eraseAt m n, c.1 ≠ n := by
  induction m with
  | nil => simp [Memory.eraseAt]
  | cons c rest ih =>
    obtain ⟨i, b⟩ := c
    by_cases h : i = n
    · simpa [Memory.eraseAt, h] using ih
    · simp only [Memory.eraseAt, if_neg h, List.mem_cons, forall_eq_or_imp]
      exact ⟨h, ih⟩

/-- A read after a write: the byte written at its address, and every other address as before. -/
theorem Memory.readAt_writeAt (m : Memory) (n k : Nat) (v : Byte) :
    Memory.readAt (Memory.writeAt m n v) k = if n = k then v else Memory.readAt m k := by
  unfold Memory.writeAt
  by_cases hv : v = Memory.unlisted
  · simp [hv, Memory.readAt_eraseAt]
  · simp only [if_neg hv]
    rw [Memory.readAt_insertAt _ _ _ _ (by simp [Memory.readAt_eraseAt]) (Memory.eraseAt_ne m n),
      Memory.readAt_eraseAt]
    split <;> rfl

theorem Memory.risingFrom_mono {lo lo' : Nat} {m : Memory} (h : Memory.risingFrom lo m = true)
    (hl : lo' ≤ lo) : Memory.risingFrom lo' m = true := by
  cases m with
  | nil => rfl
  | cons c rest =>
    obtain ⟨k, b⟩ := c
    simp only [Memory.risingFrom, Bool.and_eq_true, decide_eq_true_eq] at h ⊢
    exact ⟨⟨⟨by omega, h.1.1.2⟩, h.1.2⟩, h.2⟩

theorem Memory.risingFrom_eraseAt {lo : Nat} {m : Memory} (n : Nat)
    (h : Memory.risingFrom lo m = true) : Memory.risingFrom lo (Memory.eraseAt m n) = true := by
  induction m generalizing lo with
  | nil => rfl
  | cons c rest ih =>
    obtain ⟨k, b⟩ := c
    simp only [Memory.risingFrom, Bool.and_eq_true, decide_eq_true_eq] at h
    by_cases hk : k = n
    · simp only [Memory.eraseAt, if_pos hk]
      exact Memory.risingFrom_mono (ih h.2) (by omega)
    · simp only [Memory.eraseAt, if_neg hk, Memory.risingFrom, Bool.and_eq_true, decide_eq_true_eq]
      exact ⟨h.1, ih h.2⟩

theorem Memory.risingFrom_insertAt {lo n : Nat} {m : Memory} {v : Byte}
    (h : Memory.risingFrom lo m = true) (hlo : lo ≤ n) (hn : n < 65536)
    (hv : v ≠ Memory.unlisted) (hne : ∀ c ∈ m, c.1 ≠ n) :
    Memory.risingFrom lo (Memory.insertAt m n v) = true := by
  induction m generalizing lo with
  | nil => simp [Memory.insertAt, Memory.risingFrom, hlo, hn, hv]
  | cons c rest ih =>
    obtain ⟨k, b⟩ := c
    have hk : k ≠ n := hne (k, b) (by simp)
    have h' := h
    simp only [Memory.risingFrom, Bool.and_eq_true, decide_eq_true_eq] at h
    by_cases hlt : k < n
    · simp only [Memory.insertAt, if_pos hlt, Memory.risingFrom, Bool.and_eq_true,
        decide_eq_true_eq]
      exact ⟨h.1, ih h.2 (by omega) fun c hc => hne c (by simp [hc])⟩
    · simp only [Memory.insertAt, if_neg hlt, Memory.risingFrom, Bool.and_eq_true,
        decide_eq_true_eq, bne_iff_ne, ne_eq]
      refine ⟨⟨⟨hlo, hn⟩, hv⟩, ⟨⟨by omega, h.1.1.2⟩, ?_⟩, h.2⟩
      simpa using h.1.2

/-- Every write keeps the canonical form. -/
theorem Memory.wf_writeAt {m : Memory} (a : Addr) (v : Byte) (h : Memory.wf m = true) :
    Memory.wf (Memory.writeAt m a.toNat v) = true := by
  unfold Memory.writeAt Memory.wf at *
  split
  · exact Memory.risingFrom_eraseAt _ h
  · next hv =>
    exact Memory.risingFrom_insertAt (Memory.risingFrom_eraseAt _ h) (by omega)
      (by have := a.isLt; omega) hv (Memory.eraseAt_ne _ _)

theorem Memory.wf_reset : Memory.wf State.reset.mem = true := rfl

/-- `Mem[a] <- v` seen from any address. -/
theorem State.memAt_setMem (a b : Addr) (v : Byte) (s : State) :
    (s.setMem a v).memAt b = if a = b then v else s.memAt b := by
  simp only [State.memAt, State.setMem, Memory.readAt_writeAt]
  by_cases h : a = b
  · simp [h]
  · have : a.toNat ≠ b.toNat := fun e => h (BitVec.eq_of_toNat_eq e)
    simp [h, this]

theorem State.setMem_keeps_wf {s : State} (a : Addr) (v : Byte) (h : Memory.wf s.mem = true) :
    Memory.wf (s.setMem a v).mem = true := Memory.wf_writeAt a v h

end Sys2Proof.Machine
end

