-- ==== Sys2Proof/Laws/State.lean ====
section
/-! SUPPORT. One lemma per field and update of State, each true by unfolding the update once. -/

namespace Sys2Proof.Machine

/-! ### Status registers -/

@[simp] theorem State.setFlag_cfg (f : Flag) (v : Bool) (s : State) :
    (State.setFlag f v s).cfg = s.cfg := by cases f <;> rfl

@[simp] theorem State.setFlag_opA (f : Flag) (v : Bool) (s : State) :
    (State.setFlag f v s).opA = s.opA := by cases f <;> rfl

@[simp] theorem State.setFlag_opD (f : Flag) (v : Bool) (s : State) :
    (State.setFlag f v s).opD = s.opD := by cases f <;> rfl

@[simp] theorem State.setFlag_opN (f : Flag) (v : Bool) (s : State) :
    (State.setFlag f v s).opN = s.opN := by cases f <;> rfl

@[simp] theorem State.setFlag_opS (f : Flag) (v : Bool) (s : State) :
    (State.setFlag f v s).opS = s.opS := by cases f <;> rfl

@[simp] theorem State.setFlag_opT (f : Flag) (v : Bool) (s : State) :
    (State.setFlag f v s).opT = s.opT := by cases f <;> rfl

@[simp] theorem State.setFlag_q (f : Flag) (v : Bool) (s : State) :
    (State.setFlag f v s).q = s.q := by cases f <;> rfl

@[simp] theorem State.setFlag_qbuf (f : Flag) (v : Bool) (s : State) :
    (State.setFlag f v s).qbuf = s.qbuf := by cases f <;> rfl

@[simp] theorem State.setFlag_qt (f : Flag) (v : Bool) (s : State) :
    (State.setFlag f v s).qt = s.qt := by cases f <;> rfl

@[simp] theorem State.setFlag_cpos (f : Flag) (v : Bool) (s : State) :
    (State.setFlag f v s).cpos = s.cpos := by cases f <;> rfl

@[simp] theorem State.setFlag_runstate (f : Flag) (v : Bool) (s : State) :
    (State.setFlag f v s).runstate = s.runstate := by cases f <;> rfl

@[simp] theorem State.setFlag_arch (f : Flag) (v : Bool) (s : State) :
    (State.setFlag f v s).arch = s.arch := by cases f <;> rfl

@[simp] theorem State.setFlag_speed (f : Flag) (v : Bool) (s : State) :
    (State.setFlag f v s).speed = s.speed := by cases f <;> rfl

@[simp] theorem State.setFlag_fault (f : Flag) (v : Bool) (s : State) :
    (State.setFlag f v s).fault = s.fault := by cases f <;> rfl

@[simp] theorem State.setFlag_linkBusy (f : Flag) (v : Bool) (s : State) :
    (State.setFlag f v s).linkBusy = s.linkBusy := by cases f <;> rfl

@[simp] theorem State.setFlag_arbPhase (f : Flag) (v : Bool) (s : State) :
    (State.setFlag f v s).arbPhase = s.arbPhase := by cases f <;> rfl

@[simp] theorem State.setFlag_archsel (f : Flag) (v : Bool) (s : State) :
    (State.setFlag f v s).archsel = s.archsel := by cases f <;> rfl

@[simp] theorem State.setFlag_speedsel (f : Flag) (v : Bool) (s : State) :
    (State.setFlag f v s).speedsel = s.speedsel := by cases f <;> rfl

@[simp] theorem State.setFlag_resetLine (f : Flag) (v : Bool) (s : State) :
    (State.setFlag f v s).resetLine = s.resetLine := by cases f <;> rfl

@[simp] theorem State.setFlag_busen (f : Flag) (v : Bool) (s : State) :
    (State.setFlag f v s).busen = s.busen := by cases f <;> rfl

@[simp] theorem State.setFlag_int (f : Flag) (v : Bool) (s : State) :
    (State.setFlag f v s).int = s.int := by cases f <;> rfl

@[simp] theorem State.setFlag_ack (f : Flag) (v : Bool) (s : State) :
    (State.setFlag f v s).ack = s.ack := by cases f <;> rfl

@[simp] theorem State.setFlag_aoe (f : Flag) (v : Bool) (s : State) :
    (State.setFlag f v s).aoe = s.aoe := by cases f <;> rfl

@[simp] theorem State.setFlag_rwn (f : Flag) (v : Bool) (s : State) :
    (State.setFlag f v s).rwn = s.rwn := by cases f <;> rfl

@[simp] theorem State.setFlag_latch (f : Flag) (v : Bool) (s : State) :
    (State.setFlag f v s).latch = s.latch := by cases f <;> rfl

@[simp] theorem State.setFlag_sclk (f : Flag) (v : Bool) (s : State) :
    (State.setFlag f v s).sclk = s.sclk := by cases f <;> rfl

@[simp] theorem State.setFlag_sdo (f : Flag) (v : Bool) (s : State) :
    (State.setFlag f v s).sdo = s.sdo := by cases f <;> rfl

@[simp] theorem State.setFlag_sdi (f : Flag) (v : Bool) (s : State) :
    (State.setFlag f v s).sdi = s.sdi := by cases f <;> rfl

@[simp] theorem State.setFlag_req (f : Flag) (v : Bool) (s : State) :
    (State.setFlag f v s).req = s.req := by cases f <;> rfl

@[simp] theorem State.setFlag_dbell (f : Flag) (v : Bool) (s : State) :
    (State.setFlag f v s).dbell = s.dbell := by cases f <;> rfl

@[simp] theorem State.setFlag_srAddr (f : Flag) (v : Bool) (s : State) :
    (State.setFlag f v s).srAddr = s.srAddr := by cases f <;> rfl

@[simp] theorem State.setFlag_srData (f : Flag) (v : Bool) (s : State) :
    (State.setFlag f v s).srData = s.srData := by cases f <;> rfl

@[simp] theorem State.setFlag_mem (f : Flag) (v : Bool) (s : State) :
    (State.setFlag f v s).mem = s.mem := by cases f <;> rfl

@[simp] theorem State.setFlag_setting0 (f : Flag) (v : Bool) (s : State) :
    (State.setFlag f v s).setting0 = s.setting0 := by cases f <;> rfl

@[simp] theorem State.setFlag_setting1 (f : Flag) (v : Bool) (s : State) :
    (State.setFlag f v s).setting1 = s.setting1 := by cases f <;> rfl

@[simp] theorem State.setFlag_hist (f : Flag) (v : Bool) (s : State) :
    (State.setFlag f v s).hist = s.hist := by cases f <;> rfl

@[simp] theorem State.setFlag_stream (f : Flag) (v : Bool) (s : State) :
    (State.setFlag f v s).stream = s.stream := by cases f <;> rfl

@[simp] theorem State.setFlag_refused (f : Flag) (v : Bool) (s : State) :
    (State.setFlag f v s).refused = s.refused := by cases f <;> rfl

@[simp] theorem State.setFlag_schedule (f : Flag) (v : Bool) (s : State) :
    (State.setFlag f v s).schedule = s.schedule := by cases f <;> rfl

@[simp] theorem State.setFlag_hostShare (f : Flag) (v : Bool) (s : State) :
    (State.setFlag f v s).hostShare = s.hostShare := by cases f <;> rfl

@[simp] theorem State.setFlag_endless (f : Flag) (v : Bool) (s : State) :
    (State.setFlag f v s).endless = s.endless := by cases f <;> rfl

@[simp] theorem State.setFlag_moveDraws (f : Flag) (v : Bool) (s : State) :
    (State.setFlag f v s).moveDraws = s.moveDraws := by cases f <;> rfl

@[simp] theorem State.setFlag_byteDraws (f : Flag) (v : Bool) (s : State) :
    (State.setFlag f v s).byteDraws = s.byteDraws := by cases f <;> rfl

@[simp] theorem State.setFlag_edgeDraws (f : Flag) (v : Bool) (s : State) :
    (State.setFlag f v s).edgeDraws = s.edgeDraws := by cases f <;> rfl

@[simp] theorem State.setFlag_frameOut (f : Flag) (v : Bool) (s : State) :
    (State.setFlag f v s).frameOut = s.frameOut := by cases f <;> rfl

@[simp] theorem State.setFlag_frameIn (f : Flag) (v : Bool) (s : State) :
    (State.setFlag f v s).frameIn = s.frameIn := by cases f <;> rfl

@[simp] theorem State.setFlag_tickArmed_tickArmed (v : Bool) (s : State) :
    (State.setFlag .tickArmed v s).tickArmed = v := rfl

@[simp] theorem State.setFlag_tickArmed_doorbellLatch (v : Bool) (s : State) :
    (State.setFlag .tickArmed v s).doorbellLatch = s.doorbellLatch := rfl

@[simp] theorem State.setFlag_tickArmed_dbPending (v : Bool) (s : State) :
    (State.setFlag .tickArmed v s).dbPending = s.dbPending := rfl

@[simp] theorem State.setFlag_tickArmed_ie (v : Bool) (s : State) :
    (State.setFlag .tickArmed v s).ie = s.ie := rfl

@[simp] theorem State.setFlag_tickArmed_doorbellIe (v : Bool) (s : State) :
    (State.setFlag .tickArmed v s).doorbellIe = s.doorbellIe := rfl

@[simp] theorem State.setFlag_tickArmed_initialised (v : Bool) (s : State) :
    (State.setFlag .tickArmed v s).initialised = s.initialised := rfl

@[simp] theorem State.setFlag_tickArmed_arbWasRunning (v : Bool) (s : State) :
    (State.setFlag .tickArmed v s).arbWasRunning = s.arbWasRunning := rfl

@[simp] theorem State.setFlag_doorbellLatch_tickArmed (v : Bool) (s : State) :
    (State.setFlag .doorbellLatch v s).tickArmed = s.tickArmed := rfl

@[simp] theorem State.setFlag_doorbellLatch_doorbellLatch (v : Bool) (s : State) :
    (State.setFlag .doorbellLatch v s).doorbellLatch = v := rfl

@[simp] theorem State.setFlag_doorbellLatch_dbPending (v : Bool) (s : State) :
    (State.setFlag .doorbellLatch v s).dbPending = s.dbPending := rfl

@[simp] theorem State.setFlag_doorbellLatch_ie (v : Bool) (s : State) :
    (State.setFlag .doorbellLatch v s).ie = s.ie := rfl

@[simp] theorem State.setFlag_doorbellLatch_doorbellIe (v : Bool) (s : State) :
    (State.setFlag .doorbellLatch v s).doorbellIe = s.doorbellIe := rfl

@[simp] theorem State.setFlag_doorbellLatch_initialised (v : Bool) (s : State) :
    (State.setFlag .doorbellLatch v s).initialised = s.initialised := rfl

@[simp] theorem State.setFlag_doorbellLatch_arbWasRunning (v : Bool) (s : State) :
    (State.setFlag .doorbellLatch v s).arbWasRunning = s.arbWasRunning := rfl

@[simp] theorem State.setFlag_dbPending_tickArmed (v : Bool) (s : State) :
    (State.setFlag .dbPending v s).tickArmed = s.tickArmed := rfl

@[simp] theorem State.setFlag_dbPending_doorbellLatch (v : Bool) (s : State) :
    (State.setFlag .dbPending v s).doorbellLatch = s.doorbellLatch := rfl

@[simp] theorem State.setFlag_dbPending_dbPending (v : Bool) (s : State) :
    (State.setFlag .dbPending v s).dbPending = v := rfl

@[simp] theorem State.setFlag_dbPending_ie (v : Bool) (s : State) :
    (State.setFlag .dbPending v s).ie = s.ie := rfl

@[simp] theorem State.setFlag_dbPending_doorbellIe (v : Bool) (s : State) :
    (State.setFlag .dbPending v s).doorbellIe = s.doorbellIe := rfl

@[simp] theorem State.setFlag_dbPending_initialised (v : Bool) (s : State) :
    (State.setFlag .dbPending v s).initialised = s.initialised := rfl

@[simp] theorem State.setFlag_dbPending_arbWasRunning (v : Bool) (s : State) :
    (State.setFlag .dbPending v s).arbWasRunning = s.arbWasRunning := rfl

@[simp] theorem State.setFlag_ie_tickArmed (v : Bool) (s : State) :
    (State.setFlag .ie v s).tickArmed = s.tickArmed := rfl

@[simp] theorem State.setFlag_ie_doorbellLatch (v : Bool) (s : State) :
    (State.setFlag .ie v s).doorbellLatch = s.doorbellLatch := rfl

@[simp] theorem State.setFlag_ie_dbPending (v : Bool) (s : State) :
    (State.setFlag .ie v s).dbPending = s.dbPending := rfl

@[simp] theorem State.setFlag_ie_ie (v : Bool) (s : State) :
    (State.setFlag .ie v s).ie = v := rfl

@[simp] theorem State.setFlag_ie_doorbellIe (v : Bool) (s : State) :
    (State.setFlag .ie v s).doorbellIe = s.doorbellIe := rfl

@[simp] theorem State.setFlag_ie_initialised (v : Bool) (s : State) :
    (State.setFlag .ie v s).initialised = s.initialised := rfl

@[simp] theorem State.setFlag_ie_arbWasRunning (v : Bool) (s : State) :
    (State.setFlag .ie v s).arbWasRunning = s.arbWasRunning := rfl

@[simp] theorem State.setFlag_doorbellIe_tickArmed (v : Bool) (s : State) :
    (State.setFlag .doorbellIe v s).tickArmed = s.tickArmed := rfl

@[simp] theorem State.setFlag_doorbellIe_doorbellLatch (v : Bool) (s : State) :
    (State.setFlag .doorbellIe v s).doorbellLatch = s.doorbellLatch := rfl

@[simp] theorem State.setFlag_doorbellIe_dbPending (v : Bool) (s : State) :
    (State.setFlag .doorbellIe v s).dbPending = s.dbPending := rfl

@[simp] theorem State.setFlag_doorbellIe_ie (v : Bool) (s : State) :
    (State.setFlag .doorbellIe v s).ie = s.ie := rfl

@[simp] theorem State.setFlag_doorbellIe_doorbellIe (v : Bool) (s : State) :
    (State.setFlag .doorbellIe v s).doorbellIe = v := rfl

@[simp] theorem State.setFlag_doorbellIe_initialised (v : Bool) (s : State) :
    (State.setFlag .doorbellIe v s).initialised = s.initialised := rfl

@[simp] theorem State.setFlag_doorbellIe_arbWasRunning (v : Bool) (s : State) :
    (State.setFlag .doorbellIe v s).arbWasRunning = s.arbWasRunning := rfl

@[simp] theorem State.setFlag_initialised_tickArmed (v : Bool) (s : State) :
    (State.setFlag .initialised v s).tickArmed = s.tickArmed := rfl

@[simp] theorem State.setFlag_initialised_doorbellLatch (v : Bool) (s : State) :
    (State.setFlag .initialised v s).doorbellLatch = s.doorbellLatch := rfl

@[simp] theorem State.setFlag_initialised_dbPending (v : Bool) (s : State) :
    (State.setFlag .initialised v s).dbPending = s.dbPending := rfl

@[simp] theorem State.setFlag_initialised_ie (v : Bool) (s : State) :
    (State.setFlag .initialised v s).ie = s.ie := rfl

@[simp] theorem State.setFlag_initialised_doorbellIe (v : Bool) (s : State) :
    (State.setFlag .initialised v s).doorbellIe = s.doorbellIe := rfl

@[simp] theorem State.setFlag_initialised_initialised (v : Bool) (s : State) :
    (State.setFlag .initialised v s).initialised = v := rfl

@[simp] theorem State.setFlag_initialised_arbWasRunning (v : Bool) (s : State) :
    (State.setFlag .initialised v s).arbWasRunning = s.arbWasRunning := rfl

@[simp] theorem State.setFlag_arbWasRunning_tickArmed (v : Bool) (s : State) :
    (State.setFlag .arbWasRunning v s).tickArmed = s.tickArmed := rfl

@[simp] theorem State.setFlag_arbWasRunning_doorbellLatch (v : Bool) (s : State) :
    (State.setFlag .arbWasRunning v s).doorbellLatch = s.doorbellLatch := rfl

@[simp] theorem State.setFlag_arbWasRunning_dbPending (v : Bool) (s : State) :
    (State.setFlag .arbWasRunning v s).dbPending = s.dbPending := rfl

@[simp] theorem State.setFlag_arbWasRunning_ie (v : Bool) (s : State) :
    (State.setFlag .arbWasRunning v s).ie = s.ie := rfl

@[simp] theorem State.setFlag_arbWasRunning_doorbellIe (v : Bool) (s : State) :
    (State.setFlag .arbWasRunning v s).doorbellIe = s.doorbellIe := rfl

@[simp] theorem State.setFlag_arbWasRunning_initialised (v : Bool) (s : State) :
    (State.setFlag .arbWasRunning v s).initialised = s.initialised := rfl

@[simp] theorem State.setFlag_arbWasRunning_arbWasRunning (v : Bool) (s : State) :
    (State.setFlag .arbWasRunning v s).arbWasRunning = v := rfl

@[simp] theorem State.setRunstate_cfg (v : RunState) (s : State) :
    (State.setRunstate v s).cfg = s.cfg := rfl

@[simp] theorem State.setRunstate_opA (v : RunState) (s : State) :
    (State.setRunstate v s).opA = s.opA := rfl

@[simp] theorem State.setRunstate_opD (v : RunState) (s : State) :
    (State.setRunstate v s).opD = s.opD := rfl

@[simp] theorem State.setRunstate_opN (v : RunState) (s : State) :
    (State.setRunstate v s).opN = s.opN := rfl

@[simp] theorem State.setRunstate_opS (v : RunState) (s : State) :
    (State.setRunstate v s).opS = s.opS := rfl

@[simp] theorem State.setRunstate_opT (v : RunState) (s : State) :
    (State.setRunstate v s).opT = s.opT := rfl

@[simp] theorem State.setRunstate_q (v : RunState) (s : State) :
    (State.setRunstate v s).q = s.q := rfl

@[simp] theorem State.setRunstate_qbuf (v : RunState) (s : State) :
    (State.setRunstate v s).qbuf = s.qbuf := rfl

@[simp] theorem State.setRunstate_qt (v : RunState) (s : State) :
    (State.setRunstate v s).qt = s.qt := rfl

@[simp] theorem State.setRunstate_cpos (v : RunState) (s : State) :
    (State.setRunstate v s).cpos = s.cpos := rfl

@[simp] theorem State.setRunstate_arch (v : RunState) (s : State) :
    (State.setRunstate v s).arch = s.arch := rfl

@[simp] theorem State.setRunstate_speed (v : RunState) (s : State) :
    (State.setRunstate v s).speed = s.speed := rfl

@[simp] theorem State.setRunstate_tickArmed (v : RunState) (s : State) :
    (State.setRunstate v s).tickArmed = s.tickArmed := rfl

@[simp] theorem State.setRunstate_doorbellLatch (v : RunState) (s : State) :
    (State.setRunstate v s).doorbellLatch = s.doorbellLatch := rfl

@[simp] theorem State.setRunstate_dbPending (v : RunState) (s : State) :
    (State.setRunstate v s).dbPending = s.dbPending := rfl

@[simp] theorem State.setRunstate_ie (v : RunState) (s : State) :
    (State.setRunstate v s).ie = s.ie := rfl

@[simp] theorem State.setRunstate_doorbellIe (v : RunState) (s : State) :
    (State.setRunstate v s).doorbellIe = s.doorbellIe := rfl

@[simp] theorem State.setRunstate_initialised (v : RunState) (s : State) :
    (State.setRunstate v s).initialised = s.initialised := rfl

@[simp] theorem State.setRunstate_fault (v : RunState) (s : State) :
    (State.setRunstate v s).fault = s.fault := rfl

@[simp] theorem State.setRunstate_linkBusy (v : RunState) (s : State) :
    (State.setRunstate v s).linkBusy = s.linkBusy := rfl

@[simp] theorem State.setRunstate_arbPhase (v : RunState) (s : State) :
    (State.setRunstate v s).arbPhase = s.arbPhase := rfl

@[simp] theorem State.setRunstate_arbWasRunning (v : RunState) (s : State) :
    (State.setRunstate v s).arbWasRunning = s.arbWasRunning := rfl

@[simp] theorem State.setRunstate_archsel (v : RunState) (s : State) :
    (State.setRunstate v s).archsel = s.archsel := rfl

@[simp] theorem State.setRunstate_speedsel (v : RunState) (s : State) :
    (State.setRunstate v s).speedsel = s.speedsel := rfl

@[simp] theorem State.setRunstate_resetLine (v : RunState) (s : State) :
    (State.setRunstate v s).resetLine = s.resetLine := rfl

@[simp] theorem State.setRunstate_busen (v : RunState) (s : State) :
    (State.setRunstate v s).busen = s.busen := rfl

@[simp] theorem State.setRunstate_int (v : RunState) (s : State) :
    (State.setRunstate v s).int = s.int := rfl

@[simp] theorem State.setRunstate_ack (v : RunState) (s : State) :
    (State.setRunstate v s).ack = s.ack := rfl

@[simp] theorem State.setRunstate_aoe (v : RunState) (s : State) :
    (State.setRunstate v s).aoe = s.aoe := rfl

@[simp] theorem State.setRunstate_rwn (v : RunState) (s : State) :
    (State.setRunstate v s).rwn = s.rwn := rfl

@[simp] theorem State.setRunstate_latch (v : RunState) (s : State) :
    (State.setRunstate v s).latch = s.latch := rfl

@[simp] theorem State.setRunstate_sclk (v : RunState) (s : State) :
    (State.setRunstate v s).sclk = s.sclk := rfl

@[simp] theorem State.setRunstate_sdo (v : RunState) (s : State) :
    (State.setRunstate v s).sdo = s.sdo := rfl

@[simp] theorem State.setRunstate_sdi (v : RunState) (s : State) :
    (State.setRunstate v s).sdi = s.sdi := rfl

@[simp] theorem State.setRunstate_req (v : RunState) (s : State) :
    (State.setRunstate v s).req = s.req := rfl

@[simp] theorem State.setRunstate_dbell (v : RunState) (s : State) :
    (State.setRunstate v s).dbell = s.dbell := rfl

@[simp] theorem State.setRunstate_srAddr (v : RunState) (s : State) :
    (State.setRunstate v s).srAddr = s.srAddr := rfl

@[simp] theorem State.setRunstate_srData (v : RunState) (s : State) :
    (State.setRunstate v s).srData = s.srData := rfl

@[simp] theorem State.setRunstate_mem (v : RunState) (s : State) :
    (State.setRunstate v s).mem = s.mem := rfl

@[simp] theorem State.setRunstate_setting0 (v : RunState) (s : State) :
    (State.setRunstate v s).setting0 = s.setting0 := rfl

@[simp] theorem State.setRunstate_setting1 (v : RunState) (s : State) :
    (State.setRunstate v s).setting1 = s.setting1 := rfl

@[simp] theorem State.setRunstate_hist (v : RunState) (s : State) :
    (State.setRunstate v s).hist = s.hist := rfl

@[simp] theorem State.setRunstate_stream (v : RunState) (s : State) :
    (State.setRunstate v s).stream = s.stream := rfl

@[simp] theorem State.setRunstate_refused (v : RunState) (s : State) :
    (State.setRunstate v s).refused = s.refused := rfl

@[simp] theorem State.setRunstate_schedule (v : RunState) (s : State) :
    (State.setRunstate v s).schedule = s.schedule := rfl

@[simp] theorem State.setRunstate_hostShare (v : RunState) (s : State) :
    (State.setRunstate v s).hostShare = s.hostShare := rfl

@[simp] theorem State.setRunstate_endless (v : RunState) (s : State) :
    (State.setRunstate v s).endless = s.endless := rfl

@[simp] theorem State.setRunstate_moveDraws (v : RunState) (s : State) :
    (State.setRunstate v s).moveDraws = s.moveDraws := rfl

@[simp] theorem State.setRunstate_byteDraws (v : RunState) (s : State) :
    (State.setRunstate v s).byteDraws = s.byteDraws := rfl

@[simp] theorem State.setRunstate_edgeDraws (v : RunState) (s : State) :
    (State.setRunstate v s).edgeDraws = s.edgeDraws := rfl

@[simp] theorem State.setRunstate_frameOut (v : RunState) (s : State) :
    (State.setRunstate v s).frameOut = s.frameOut := rfl

@[simp] theorem State.setRunstate_frameIn (v : RunState) (s : State) :
    (State.setRunstate v s).frameIn = s.frameIn := rfl

@[simp] theorem State.setRunstate_runstate (v : RunState) (s : State) : (State.setRunstate v s).runstate = v := rfl

@[simp] theorem State.setArch_cfg (v : Arch) (s : State) :
    (State.setArch v s).cfg = s.cfg := rfl

@[simp] theorem State.setArch_opA (v : Arch) (s : State) :
    (State.setArch v s).opA = s.opA := rfl

@[simp] theorem State.setArch_opD (v : Arch) (s : State) :
    (State.setArch v s).opD = s.opD := rfl

@[simp] theorem State.setArch_opN (v : Arch) (s : State) :
    (State.setArch v s).opN = s.opN := rfl

@[simp] theorem State.setArch_opS (v : Arch) (s : State) :
    (State.setArch v s).opS = s.opS := rfl

@[simp] theorem State.setArch_opT (v : Arch) (s : State) :
    (State.setArch v s).opT = s.opT := rfl

@[simp] theorem State.setArch_q (v : Arch) (s : State) :
    (State.setArch v s).q = s.q := rfl

@[simp] theorem State.setArch_qbuf (v : Arch) (s : State) :
    (State.setArch v s).qbuf = s.qbuf := rfl

@[simp] theorem State.setArch_qt (v : Arch) (s : State) :
    (State.setArch v s).qt = s.qt := rfl

@[simp] theorem State.setArch_cpos (v : Arch) (s : State) :
    (State.setArch v s).cpos = s.cpos := rfl

@[simp] theorem State.setArch_runstate (v : Arch) (s : State) :
    (State.setArch v s).runstate = s.runstate := rfl

@[simp] theorem State.setArch_speed (v : Arch) (s : State) :
    (State.setArch v s).speed = s.speed := rfl

@[simp] theorem State.setArch_tickArmed (v : Arch) (s : State) :
    (State.setArch v s).tickArmed = s.tickArmed := rfl

@[simp] theorem State.setArch_doorbellLatch (v : Arch) (s : State) :
    (State.setArch v s).doorbellLatch = s.doorbellLatch := rfl

@[simp] theorem State.setArch_dbPending (v : Arch) (s : State) :
    (State.setArch v s).dbPending = s.dbPending := rfl

@[simp] theorem State.setArch_ie (v : Arch) (s : State) :
    (State.setArch v s).ie = s.ie := rfl

@[simp] theorem State.setArch_doorbellIe (v : Arch) (s : State) :
    (State.setArch v s).doorbellIe = s.doorbellIe := rfl

@[simp] theorem State.setArch_initialised (v : Arch) (s : State) :
    (State.setArch v s).initialised = s.initialised := rfl

@[simp] theorem State.setArch_fault (v : Arch) (s : State) :
    (State.setArch v s).fault = s.fault := rfl

@[simp] theorem State.setArch_linkBusy (v : Arch) (s : State) :
    (State.setArch v s).linkBusy = s.linkBusy := rfl

@[simp] theorem State.setArch_arbPhase (v : Arch) (s : State) :
    (State.setArch v s).arbPhase = s.arbPhase := rfl

@[simp] theorem State.setArch_arbWasRunning (v : Arch) (s : State) :
    (State.setArch v s).arbWasRunning = s.arbWasRunning := rfl

@[simp] theorem State.setArch_archsel (v : Arch) (s : State) :
    (State.setArch v s).archsel = s.archsel := rfl

@[simp] theorem State.setArch_speedsel (v : Arch) (s : State) :
    (State.setArch v s).speedsel = s.speedsel := rfl

@[simp] theorem State.setArch_resetLine (v : Arch) (s : State) :
    (State.setArch v s).resetLine = s.resetLine := rfl

@[simp] theorem State.setArch_busen (v : Arch) (s : State) :
    (State.setArch v s).busen = s.busen := rfl

@[simp] theorem State.setArch_int (v : Arch) (s : State) :
    (State.setArch v s).int = s.int := rfl

@[simp] theorem State.setArch_ack (v : Arch) (s : State) :
    (State.setArch v s).ack = s.ack := rfl

@[simp] theorem State.setArch_aoe (v : Arch) (s : State) :
    (State.setArch v s).aoe = s.aoe := rfl

@[simp] theorem State.setArch_rwn (v : Arch) (s : State) :
    (State.setArch v s).rwn = s.rwn := rfl

@[simp] theorem State.setArch_latch (v : Arch) (s : State) :
    (State.setArch v s).latch = s.latch := rfl

@[simp] theorem State.setArch_sclk (v : Arch) (s : State) :
    (State.setArch v s).sclk = s.sclk := rfl

@[simp] theorem State.setArch_sdo (v : Arch) (s : State) :
    (State.setArch v s).sdo = s.sdo := rfl

@[simp] theorem State.setArch_sdi (v : Arch) (s : State) :
    (State.setArch v s).sdi = s.sdi := rfl

@[simp] theorem State.setArch_req (v : Arch) (s : State) :
    (State.setArch v s).req = s.req := rfl

@[simp] theorem State.setArch_dbell (v : Arch) (s : State) :
    (State.setArch v s).dbell = s.dbell := rfl

@[simp] theorem State.setArch_srAddr (v : Arch) (s : State) :
    (State.setArch v s).srAddr = s.srAddr := rfl

@[simp] theorem State.setArch_srData (v : Arch) (s : State) :
    (State.setArch v s).srData = s.srData := rfl

@[simp] theorem State.setArch_mem (v : Arch) (s : State) :
    (State.setArch v s).mem = s.mem := rfl

@[simp] theorem State.setArch_setting0 (v : Arch) (s : State) :
    (State.setArch v s).setting0 = s.setting0 := rfl

@[simp] theorem State.setArch_setting1 (v : Arch) (s : State) :
    (State.setArch v s).setting1 = s.setting1 := rfl

@[simp] theorem State.setArch_hist (v : Arch) (s : State) :
    (State.setArch v s).hist = s.hist := rfl

@[simp] theorem State.setArch_stream (v : Arch) (s : State) :
    (State.setArch v s).stream = s.stream := rfl

@[simp] theorem State.setArch_refused (v : Arch) (s : State) :
    (State.setArch v s).refused = s.refused := rfl

@[simp] theorem State.setArch_schedule (v : Arch) (s : State) :
    (State.setArch v s).schedule = s.schedule := rfl

@[simp] theorem State.setArch_hostShare (v : Arch) (s : State) :
    (State.setArch v s).hostShare = s.hostShare := rfl

@[simp] theorem State.setArch_endless (v : Arch) (s : State) :
    (State.setArch v s).endless = s.endless := rfl

@[simp] theorem State.setArch_moveDraws (v : Arch) (s : State) :
    (State.setArch v s).moveDraws = s.moveDraws := rfl

@[simp] theorem State.setArch_byteDraws (v : Arch) (s : State) :
    (State.setArch v s).byteDraws = s.byteDraws := rfl

@[simp] theorem State.setArch_edgeDraws (v : Arch) (s : State) :
    (State.setArch v s).edgeDraws = s.edgeDraws := rfl

@[simp] theorem State.setArch_frameOut (v : Arch) (s : State) :
    (State.setArch v s).frameOut = s.frameOut := rfl

@[simp] theorem State.setArch_frameIn (v : Arch) (s : State) :
    (State.setArch v s).frameIn = s.frameIn := rfl

@[simp] theorem State.setArch_arch (v : Arch) (s : State) : (State.setArch v s).arch = v := rfl

@[simp] theorem State.setSpeed_cfg (v : Speed) (s : State) :
    (State.setSpeed v s).cfg = s.cfg := rfl

@[simp] theorem State.setSpeed_opA (v : Speed) (s : State) :
    (State.setSpeed v s).opA = s.opA := rfl

@[simp] theorem State.setSpeed_opD (v : Speed) (s : State) :
    (State.setSpeed v s).opD = s.opD := rfl

@[simp] theorem State.setSpeed_opN (v : Speed) (s : State) :
    (State.setSpeed v s).opN = s.opN := rfl

@[simp] theorem State.setSpeed_opS (v : Speed) (s : State) :
    (State.setSpeed v s).opS = s.opS := rfl

@[simp] theorem State.setSpeed_opT (v : Speed) (s : State) :
    (State.setSpeed v s).opT = s.opT := rfl

@[simp] theorem State.setSpeed_q (v : Speed) (s : State) :
    (State.setSpeed v s).q = s.q := rfl

@[simp] theorem State.setSpeed_qbuf (v : Speed) (s : State) :
    (State.setSpeed v s).qbuf = s.qbuf := rfl

@[simp] theorem State.setSpeed_qt (v : Speed) (s : State) :
    (State.setSpeed v s).qt = s.qt := rfl

@[simp] theorem State.setSpeed_cpos (v : Speed) (s : State) :
    (State.setSpeed v s).cpos = s.cpos := rfl

@[simp] theorem State.setSpeed_runstate (v : Speed) (s : State) :
    (State.setSpeed v s).runstate = s.runstate := rfl

@[simp] theorem State.setSpeed_arch (v : Speed) (s : State) :
    (State.setSpeed v s).arch = s.arch := rfl

@[simp] theorem State.setSpeed_tickArmed (v : Speed) (s : State) :
    (State.setSpeed v s).tickArmed = s.tickArmed := rfl

@[simp] theorem State.setSpeed_doorbellLatch (v : Speed) (s : State) :
    (State.setSpeed v s).doorbellLatch = s.doorbellLatch := rfl

@[simp] theorem State.setSpeed_dbPending (v : Speed) (s : State) :
    (State.setSpeed v s).dbPending = s.dbPending := rfl

@[simp] theorem State.setSpeed_ie (v : Speed) (s : State) :
    (State.setSpeed v s).ie = s.ie := rfl

@[simp] theorem State.setSpeed_doorbellIe (v : Speed) (s : State) :
    (State.setSpeed v s).doorbellIe = s.doorbellIe := rfl

@[simp] theorem State.setSpeed_initialised (v : Speed) (s : State) :
    (State.setSpeed v s).initialised = s.initialised := rfl

@[simp] theorem State.setSpeed_fault (v : Speed) (s : State) :
    (State.setSpeed v s).fault = s.fault := rfl

@[simp] theorem State.setSpeed_linkBusy (v : Speed) (s : State) :
    (State.setSpeed v s).linkBusy = s.linkBusy := rfl

@[simp] theorem State.setSpeed_arbPhase (v : Speed) (s : State) :
    (State.setSpeed v s).arbPhase = s.arbPhase := rfl

@[simp] theorem State.setSpeed_arbWasRunning (v : Speed) (s : State) :
    (State.setSpeed v s).arbWasRunning = s.arbWasRunning := rfl

@[simp] theorem State.setSpeed_archsel (v : Speed) (s : State) :
    (State.setSpeed v s).archsel = s.archsel := rfl

@[simp] theorem State.setSpeed_speedsel (v : Speed) (s : State) :
    (State.setSpeed v s).speedsel = s.speedsel := rfl

@[simp] theorem State.setSpeed_resetLine (v : Speed) (s : State) :
    (State.setSpeed v s).resetLine = s.resetLine := rfl

@[simp] theorem State.setSpeed_busen (v : Speed) (s : State) :
    (State.setSpeed v s).busen = s.busen := rfl

@[simp] theorem State.setSpeed_int (v : Speed) (s : State) :
    (State.setSpeed v s).int = s.int := rfl

@[simp] theorem State.setSpeed_ack (v : Speed) (s : State) :
    (State.setSpeed v s).ack = s.ack := rfl

@[simp] theorem State.setSpeed_aoe (v : Speed) (s : State) :
    (State.setSpeed v s).aoe = s.aoe := rfl

@[simp] theorem State.setSpeed_rwn (v : Speed) (s : State) :
    (State.setSpeed v s).rwn = s.rwn := rfl

@[simp] theorem State.setSpeed_latch (v : Speed) (s : State) :
    (State.setSpeed v s).latch = s.latch := rfl

@[simp] theorem State.setSpeed_sclk (v : Speed) (s : State) :
    (State.setSpeed v s).sclk = s.sclk := rfl

@[simp] theorem State.setSpeed_sdo (v : Speed) (s : State) :
    (State.setSpeed v s).sdo = s.sdo := rfl

@[simp] theorem State.setSpeed_sdi (v : Speed) (s : State) :
    (State.setSpeed v s).sdi = s.sdi := rfl

@[simp] theorem State.setSpeed_req (v : Speed) (s : State) :
    (State.setSpeed v s).req = s.req := rfl

@[simp] theorem State.setSpeed_dbell (v : Speed) (s : State) :
    (State.setSpeed v s).dbell = s.dbell := rfl

@[simp] theorem State.setSpeed_srAddr (v : Speed) (s : State) :
    (State.setSpeed v s).srAddr = s.srAddr := rfl

@[simp] theorem State.setSpeed_srData (v : Speed) (s : State) :
    (State.setSpeed v s).srData = s.srData := rfl

@[simp] theorem State.setSpeed_mem (v : Speed) (s : State) :
    (State.setSpeed v s).mem = s.mem := rfl

@[simp] theorem State.setSpeed_setting0 (v : Speed) (s : State) :
    (State.setSpeed v s).setting0 = s.setting0 := rfl

@[simp] theorem State.setSpeed_setting1 (v : Speed) (s : State) :
    (State.setSpeed v s).setting1 = s.setting1 := rfl

@[simp] theorem State.setSpeed_hist (v : Speed) (s : State) :
    (State.setSpeed v s).hist = s.hist := rfl

@[simp] theorem State.setSpeed_stream (v : Speed) (s : State) :
    (State.setSpeed v s).stream = s.stream := rfl

@[simp] theorem State.setSpeed_refused (v : Speed) (s : State) :
    (State.setSpeed v s).refused = s.refused := rfl

@[simp] theorem State.setSpeed_schedule (v : Speed) (s : State) :
    (State.setSpeed v s).schedule = s.schedule := rfl

@[simp] theorem State.setSpeed_hostShare (v : Speed) (s : State) :
    (State.setSpeed v s).hostShare = s.hostShare := rfl

@[simp] theorem State.setSpeed_endless (v : Speed) (s : State) :
    (State.setSpeed v s).endless = s.endless := rfl

@[simp] theorem State.setSpeed_moveDraws (v : Speed) (s : State) :
    (State.setSpeed v s).moveDraws = s.moveDraws := rfl

@[simp] theorem State.setSpeed_byteDraws (v : Speed) (s : State) :
    (State.setSpeed v s).byteDraws = s.byteDraws := rfl

@[simp] theorem State.setSpeed_edgeDraws (v : Speed) (s : State) :
    (State.setSpeed v s).edgeDraws = s.edgeDraws := rfl

@[simp] theorem State.setSpeed_frameOut (v : Speed) (s : State) :
    (State.setSpeed v s).frameOut = s.frameOut := rfl

@[simp] theorem State.setSpeed_frameIn (v : Speed) (s : State) :
    (State.setSpeed v s).frameIn = s.frameIn := rfl

@[simp] theorem State.setSpeed_speed (v : Speed) (s : State) : (State.setSpeed v s).speed = v := rfl

@[simp] theorem State.setArbPhase_cfg (v : ArbPhase) (s : State) :
    (State.setArbPhase v s).cfg = s.cfg := rfl

@[simp] theorem State.setArbPhase_opA (v : ArbPhase) (s : State) :
    (State.setArbPhase v s).opA = s.opA := rfl

@[simp] theorem State.setArbPhase_opD (v : ArbPhase) (s : State) :
    (State.setArbPhase v s).opD = s.opD := rfl

@[simp] theorem State.setArbPhase_opN (v : ArbPhase) (s : State) :
    (State.setArbPhase v s).opN = s.opN := rfl

@[simp] theorem State.setArbPhase_opS (v : ArbPhase) (s : State) :
    (State.setArbPhase v s).opS = s.opS := rfl

@[simp] theorem State.setArbPhase_opT (v : ArbPhase) (s : State) :
    (State.setArbPhase v s).opT = s.opT := rfl

@[simp] theorem State.setArbPhase_q (v : ArbPhase) (s : State) :
    (State.setArbPhase v s).q = s.q := rfl

@[simp] theorem State.setArbPhase_qbuf (v : ArbPhase) (s : State) :
    (State.setArbPhase v s).qbuf = s.qbuf := rfl

@[simp] theorem State.setArbPhase_qt (v : ArbPhase) (s : State) :
    (State.setArbPhase v s).qt = s.qt := rfl

@[simp] theorem State.setArbPhase_cpos (v : ArbPhase) (s : State) :
    (State.setArbPhase v s).cpos = s.cpos := rfl

@[simp] theorem State.setArbPhase_runstate (v : ArbPhase) (s : State) :
    (State.setArbPhase v s).runstate = s.runstate := rfl

@[simp] theorem State.setArbPhase_arch (v : ArbPhase) (s : State) :
    (State.setArbPhase v s).arch = s.arch := rfl

@[simp] theorem State.setArbPhase_speed (v : ArbPhase) (s : State) :
    (State.setArbPhase v s).speed = s.speed := rfl

@[simp] theorem State.setArbPhase_tickArmed (v : ArbPhase) (s : State) :
    (State.setArbPhase v s).tickArmed = s.tickArmed := rfl

@[simp] theorem State.setArbPhase_doorbellLatch (v : ArbPhase) (s : State) :
    (State.setArbPhase v s).doorbellLatch = s.doorbellLatch := rfl

@[simp] theorem State.setArbPhase_dbPending (v : ArbPhase) (s : State) :
    (State.setArbPhase v s).dbPending = s.dbPending := rfl

@[simp] theorem State.setArbPhase_ie (v : ArbPhase) (s : State) :
    (State.setArbPhase v s).ie = s.ie := rfl

@[simp] theorem State.setArbPhase_doorbellIe (v : ArbPhase) (s : State) :
    (State.setArbPhase v s).doorbellIe = s.doorbellIe := rfl

@[simp] theorem State.setArbPhase_initialised (v : ArbPhase) (s : State) :
    (State.setArbPhase v s).initialised = s.initialised := rfl

@[simp] theorem State.setArbPhase_fault (v : ArbPhase) (s : State) :
    (State.setArbPhase v s).fault = s.fault := rfl

@[simp] theorem State.setArbPhase_linkBusy (v : ArbPhase) (s : State) :
    (State.setArbPhase v s).linkBusy = s.linkBusy := rfl

@[simp] theorem State.setArbPhase_arbWasRunning (v : ArbPhase) (s : State) :
    (State.setArbPhase v s).arbWasRunning = s.arbWasRunning := rfl

@[simp] theorem State.setArbPhase_archsel (v : ArbPhase) (s : State) :
    (State.setArbPhase v s).archsel = s.archsel := rfl

@[simp] theorem State.setArbPhase_speedsel (v : ArbPhase) (s : State) :
    (State.setArbPhase v s).speedsel = s.speedsel := rfl

@[simp] theorem State.setArbPhase_resetLine (v : ArbPhase) (s : State) :
    (State.setArbPhase v s).resetLine = s.resetLine := rfl

@[simp] theorem State.setArbPhase_busen (v : ArbPhase) (s : State) :
    (State.setArbPhase v s).busen = s.busen := rfl

@[simp] theorem State.setArbPhase_int (v : ArbPhase) (s : State) :
    (State.setArbPhase v s).int = s.int := rfl

@[simp] theorem State.setArbPhase_ack (v : ArbPhase) (s : State) :
    (State.setArbPhase v s).ack = s.ack := rfl

@[simp] theorem State.setArbPhase_aoe (v : ArbPhase) (s : State) :
    (State.setArbPhase v s).aoe = s.aoe := rfl

@[simp] theorem State.setArbPhase_rwn (v : ArbPhase) (s : State) :
    (State.setArbPhase v s).rwn = s.rwn := rfl

@[simp] theorem State.setArbPhase_latch (v : ArbPhase) (s : State) :
    (State.setArbPhase v s).latch = s.latch := rfl

@[simp] theorem State.setArbPhase_sclk (v : ArbPhase) (s : State) :
    (State.setArbPhase v s).sclk = s.sclk := rfl

@[simp] theorem State.setArbPhase_sdo (v : ArbPhase) (s : State) :
    (State.setArbPhase v s).sdo = s.sdo := rfl

@[simp] theorem State.setArbPhase_sdi (v : ArbPhase) (s : State) :
    (State.setArbPhase v s).sdi = s.sdi := rfl

@[simp] theorem State.setArbPhase_req (v : ArbPhase) (s : State) :
    (State.setArbPhase v s).req = s.req := rfl

@[simp] theorem State.setArbPhase_dbell (v : ArbPhase) (s : State) :
    (State.setArbPhase v s).dbell = s.dbell := rfl

@[simp] theorem State.setArbPhase_srAddr (v : ArbPhase) (s : State) :
    (State.setArbPhase v s).srAddr = s.srAddr := rfl

@[simp] theorem State.setArbPhase_srData (v : ArbPhase) (s : State) :
    (State.setArbPhase v s).srData = s.srData := rfl

@[simp] theorem State.setArbPhase_mem (v : ArbPhase) (s : State) :
    (State.setArbPhase v s).mem = s.mem := rfl

@[simp] theorem State.setArbPhase_setting0 (v : ArbPhase) (s : State) :
    (State.setArbPhase v s).setting0 = s.setting0 := rfl

@[simp] theorem State.setArbPhase_setting1 (v : ArbPhase) (s : State) :
    (State.setArbPhase v s).setting1 = s.setting1 := rfl

@[simp] theorem State.setArbPhase_hist (v : ArbPhase) (s : State) :
    (State.setArbPhase v s).hist = s.hist := rfl

@[simp] theorem State.setArbPhase_stream (v : ArbPhase) (s : State) :
    (State.setArbPhase v s).stream = s.stream := rfl

@[simp] theorem State.setArbPhase_refused (v : ArbPhase) (s : State) :
    (State.setArbPhase v s).refused = s.refused := rfl

@[simp] theorem State.setArbPhase_schedule (v : ArbPhase) (s : State) :
    (State.setArbPhase v s).schedule = s.schedule := rfl

@[simp] theorem State.setArbPhase_hostShare (v : ArbPhase) (s : State) :
    (State.setArbPhase v s).hostShare = s.hostShare := rfl

@[simp] theorem State.setArbPhase_endless (v : ArbPhase) (s : State) :
    (State.setArbPhase v s).endless = s.endless := rfl

@[simp] theorem State.setArbPhase_moveDraws (v : ArbPhase) (s : State) :
    (State.setArbPhase v s).moveDraws = s.moveDraws := rfl

@[simp] theorem State.setArbPhase_byteDraws (v : ArbPhase) (s : State) :
    (State.setArbPhase v s).byteDraws = s.byteDraws := rfl

@[simp] theorem State.setArbPhase_edgeDraws (v : ArbPhase) (s : State) :
    (State.setArbPhase v s).edgeDraws = s.edgeDraws := rfl

@[simp] theorem State.setArbPhase_frameOut (v : ArbPhase) (s : State) :
    (State.setArbPhase v s).frameOut = s.frameOut := rfl

@[simp] theorem State.setArbPhase_frameIn (v : ArbPhase) (s : State) :
    (State.setArbPhase v s).frameIn = s.frameIn := rfl

@[simp] theorem State.setArbPhase_arbPhase (v : ArbPhase) (s : State) : (State.setArbPhase v s).arbPhase = v := rfl

@[simp] theorem State.setQ_cfg (v : Word16) (s : State) :
    (State.setQ v s).cfg = s.cfg := rfl

@[simp] theorem State.setQ_opA (v : Word16) (s : State) :
    (State.setQ v s).opA = s.opA := rfl

@[simp] theorem State.setQ_opD (v : Word16) (s : State) :
    (State.setQ v s).opD = s.opD := rfl

@[simp] theorem State.setQ_opN (v : Word16) (s : State) :
    (State.setQ v s).opN = s.opN := rfl

@[simp] theorem State.setQ_opS (v : Word16) (s : State) :
    (State.setQ v s).opS = s.opS := rfl

@[simp] theorem State.setQ_opT (v : Word16) (s : State) :
    (State.setQ v s).opT = s.opT := rfl

@[simp] theorem State.setQ_qbuf (v : Word16) (s : State) :
    (State.setQ v s).qbuf = s.qbuf := rfl

@[simp] theorem State.setQ_qt (v : Word16) (s : State) :
    (State.setQ v s).qt = s.qt := rfl

@[simp] theorem State.setQ_cpos (v : Word16) (s : State) :
    (State.setQ v s).cpos = s.cpos := rfl

@[simp] theorem State.setQ_runstate (v : Word16) (s : State) :
    (State.setQ v s).runstate = s.runstate := rfl

@[simp] theorem State.setQ_arch (v : Word16) (s : State) :
    (State.setQ v s).arch = s.arch := rfl

@[simp] theorem State.setQ_speed (v : Word16) (s : State) :
    (State.setQ v s).speed = s.speed := rfl

@[simp] theorem State.setQ_tickArmed (v : Word16) (s : State) :
    (State.setQ v s).tickArmed = s.tickArmed := rfl

@[simp] theorem State.setQ_doorbellLatch (v : Word16) (s : State) :
    (State.setQ v s).doorbellLatch = s.doorbellLatch := rfl

@[simp] theorem State.setQ_dbPending (v : Word16) (s : State) :
    (State.setQ v s).dbPending = s.dbPending := rfl

@[simp] theorem State.setQ_ie (v : Word16) (s : State) :
    (State.setQ v s).ie = s.ie := rfl

@[simp] theorem State.setQ_doorbellIe (v : Word16) (s : State) :
    (State.setQ v s).doorbellIe = s.doorbellIe := rfl

@[simp] theorem State.setQ_initialised (v : Word16) (s : State) :
    (State.setQ v s).initialised = s.initialised := rfl

@[simp] theorem State.setQ_fault (v : Word16) (s : State) :
    (State.setQ v s).fault = s.fault := rfl

@[simp] theorem State.setQ_linkBusy (v : Word16) (s : State) :
    (State.setQ v s).linkBusy = s.linkBusy := rfl

@[simp] theorem State.setQ_arbPhase (v : Word16) (s : State) :
    (State.setQ v s).arbPhase = s.arbPhase := rfl

@[simp] theorem State.setQ_arbWasRunning (v : Word16) (s : State) :
    (State.setQ v s).arbWasRunning = s.arbWasRunning := rfl

@[simp] theorem State.setQ_archsel (v : Word16) (s : State) :
    (State.setQ v s).archsel = s.archsel := rfl

@[simp] theorem State.setQ_speedsel (v : Word16) (s : State) :
    (State.setQ v s).speedsel = s.speedsel := rfl

@[simp] theorem State.setQ_resetLine (v : Word16) (s : State) :
    (State.setQ v s).resetLine = s.resetLine := rfl

@[simp] theorem State.setQ_busen (v : Word16) (s : State) :
    (State.setQ v s).busen = s.busen := rfl

@[simp] theorem State.setQ_int (v : Word16) (s : State) :
    (State.setQ v s).int = s.int := rfl

@[simp] theorem State.setQ_ack (v : Word16) (s : State) :
    (State.setQ v s).ack = s.ack := rfl

@[simp] theorem State.setQ_aoe (v : Word16) (s : State) :
    (State.setQ v s).aoe = s.aoe := rfl

@[simp] theorem State.setQ_rwn (v : Word16) (s : State) :
    (State.setQ v s).rwn = s.rwn := rfl

@[simp] theorem State.setQ_latch (v : Word16) (s : State) :
    (State.setQ v s).latch = s.latch := rfl

@[simp] theorem State.setQ_sclk (v : Word16) (s : State) :
    (State.setQ v s).sclk = s.sclk := rfl

@[simp] theorem State.setQ_sdo (v : Word16) (s : State) :
    (State.setQ v s).sdo = s.sdo := rfl

@[simp] theorem State.setQ_sdi (v : Word16) (s : State) :
    (State.setQ v s).sdi = s.sdi := rfl

@[simp] theorem State.setQ_req (v : Word16) (s : State) :
    (State.setQ v s).req = s.req := rfl

@[simp] theorem State.setQ_dbell (v : Word16) (s : State) :
    (State.setQ v s).dbell = s.dbell := rfl

@[simp] theorem State.setQ_srAddr (v : Word16) (s : State) :
    (State.setQ v s).srAddr = s.srAddr := rfl

@[simp] theorem State.setQ_srData (v : Word16) (s : State) :
    (State.setQ v s).srData = s.srData := rfl

@[simp] theorem State.setQ_mem (v : Word16) (s : State) :
    (State.setQ v s).mem = s.mem := rfl

@[simp] theorem State.setQ_setting0 (v : Word16) (s : State) :
    (State.setQ v s).setting0 = s.setting0 := rfl

@[simp] theorem State.setQ_setting1 (v : Word16) (s : State) :
    (State.setQ v s).setting1 = s.setting1 := rfl

@[simp] theorem State.setQ_hist (v : Word16) (s : State) :
    (State.setQ v s).hist = s.hist := rfl

@[simp] theorem State.setQ_stream (v : Word16) (s : State) :
    (State.setQ v s).stream = s.stream := rfl

@[simp] theorem State.setQ_refused (v : Word16) (s : State) :
    (State.setQ v s).refused = s.refused := rfl

@[simp] theorem State.setQ_schedule (v : Word16) (s : State) :
    (State.setQ v s).schedule = s.schedule := rfl

@[simp] theorem State.setQ_hostShare (v : Word16) (s : State) :
    (State.setQ v s).hostShare = s.hostShare := rfl

@[simp] theorem State.setQ_endless (v : Word16) (s : State) :
    (State.setQ v s).endless = s.endless := rfl

@[simp] theorem State.setQ_moveDraws (v : Word16) (s : State) :
    (State.setQ v s).moveDraws = s.moveDraws := rfl

@[simp] theorem State.setQ_byteDraws (v : Word16) (s : State) :
    (State.setQ v s).byteDraws = s.byteDraws := rfl

@[simp] theorem State.setQ_edgeDraws (v : Word16) (s : State) :
    (State.setQ v s).edgeDraws = s.edgeDraws := rfl

@[simp] theorem State.setQ_frameOut (v : Word16) (s : State) :
    (State.setQ v s).frameOut = s.frameOut := rfl

@[simp] theorem State.setQ_frameIn (v : Word16) (s : State) :
    (State.setQ v s).frameIn = s.frameIn := rfl

@[simp] theorem State.setQ_q (v : Word16) (s : State) : (State.setQ v s).q = v := rfl

@[simp] theorem State.setLinkBusy_cfg (v : Bool) (s : State) :
    (State.setLinkBusy v s).cfg = s.cfg := rfl

@[simp] theorem State.setLinkBusy_opA (v : Bool) (s : State) :
    (State.setLinkBusy v s).opA = s.opA := rfl

@[simp] theorem State.setLinkBusy_opD (v : Bool) (s : State) :
    (State.setLinkBusy v s).opD = s.opD := rfl

@[simp] theorem State.setLinkBusy_opN (v : Bool) (s : State) :
    (State.setLinkBusy v s).opN = s.opN := rfl

@[simp] theorem State.setLinkBusy_opS (v : Bool) (s : State) :
    (State.setLinkBusy v s).opS = s.opS := rfl

@[simp] theorem State.setLinkBusy_opT (v : Bool) (s : State) :
    (State.setLinkBusy v s).opT = s.opT := rfl

@[simp] theorem State.setLinkBusy_q (v : Bool) (s : State) :
    (State.setLinkBusy v s).q = s.q := rfl

@[simp] theorem State.setLinkBusy_qbuf (v : Bool) (s : State) :
    (State.setLinkBusy v s).qbuf = s.qbuf := rfl

@[simp] theorem State.setLinkBusy_qt (v : Bool) (s : State) :
    (State.setLinkBusy v s).qt = s.qt := rfl

@[simp] theorem State.setLinkBusy_cpos (v : Bool) (s : State) :
    (State.setLinkBusy v s).cpos = s.cpos := rfl

@[simp] theorem State.setLinkBusy_runstate (v : Bool) (s : State) :
    (State.setLinkBusy v s).runstate = s.runstate := rfl

@[simp] theorem State.setLinkBusy_arch (v : Bool) (s : State) :
    (State.setLinkBusy v s).arch = s.arch := rfl

@[simp] theorem State.setLinkBusy_speed (v : Bool) (s : State) :
    (State.setLinkBusy v s).speed = s.speed := rfl

@[simp] theorem State.setLinkBusy_tickArmed (v : Bool) (s : State) :
    (State.setLinkBusy v s).tickArmed = s.tickArmed := rfl

@[simp] theorem State.setLinkBusy_doorbellLatch (v : Bool) (s : State) :
    (State.setLinkBusy v s).doorbellLatch = s.doorbellLatch := rfl

@[simp] theorem State.setLinkBusy_dbPending (v : Bool) (s : State) :
    (State.setLinkBusy v s).dbPending = s.dbPending := rfl

@[simp] theorem State.setLinkBusy_ie (v : Bool) (s : State) :
    (State.setLinkBusy v s).ie = s.ie := rfl

@[simp] theorem State.setLinkBusy_doorbellIe (v : Bool) (s : State) :
    (State.setLinkBusy v s).doorbellIe = s.doorbellIe := rfl

@[simp] theorem State.setLinkBusy_initialised (v : Bool) (s : State) :
    (State.setLinkBusy v s).initialised = s.initialised := rfl

@[simp] theorem State.setLinkBusy_fault (v : Bool) (s : State) :
    (State.setLinkBusy v s).fault = s.fault := rfl

@[simp] theorem State.setLinkBusy_arbPhase (v : Bool) (s : State) :
    (State.setLinkBusy v s).arbPhase = s.arbPhase := rfl

@[simp] theorem State.setLinkBusy_arbWasRunning (v : Bool) (s : State) :
    (State.setLinkBusy v s).arbWasRunning = s.arbWasRunning := rfl

@[simp] theorem State.setLinkBusy_archsel (v : Bool) (s : State) :
    (State.setLinkBusy v s).archsel = s.archsel := rfl

@[simp] theorem State.setLinkBusy_speedsel (v : Bool) (s : State) :
    (State.setLinkBusy v s).speedsel = s.speedsel := rfl

@[simp] theorem State.setLinkBusy_resetLine (v : Bool) (s : State) :
    (State.setLinkBusy v s).resetLine = s.resetLine := rfl

@[simp] theorem State.setLinkBusy_busen (v : Bool) (s : State) :
    (State.setLinkBusy v s).busen = s.busen := rfl

@[simp] theorem State.setLinkBusy_int (v : Bool) (s : State) :
    (State.setLinkBusy v s).int = s.int := rfl

@[simp] theorem State.setLinkBusy_ack (v : Bool) (s : State) :
    (State.setLinkBusy v s).ack = s.ack := rfl

@[simp] theorem State.setLinkBusy_aoe (v : Bool) (s : State) :
    (State.setLinkBusy v s).aoe = s.aoe := rfl

@[simp] theorem State.setLinkBusy_rwn (v : Bool) (s : State) :
    (State.setLinkBusy v s).rwn = s.rwn := rfl

@[simp] theorem State.setLinkBusy_latch (v : Bool) (s : State) :
    (State.setLinkBusy v s).latch = s.latch := rfl

@[simp] theorem State.setLinkBusy_sclk (v : Bool) (s : State) :
    (State.setLinkBusy v s).sclk = s.sclk := rfl

@[simp] theorem State.setLinkBusy_sdo (v : Bool) (s : State) :
    (State.setLinkBusy v s).sdo = s.sdo := rfl

@[simp] theorem State.setLinkBusy_sdi (v : Bool) (s : State) :
    (State.setLinkBusy v s).sdi = s.sdi := rfl

@[simp] theorem State.setLinkBusy_req (v : Bool) (s : State) :
    (State.setLinkBusy v s).req = s.req := rfl

@[simp] theorem State.setLinkBusy_dbell (v : Bool) (s : State) :
    (State.setLinkBusy v s).dbell = s.dbell := rfl

@[simp] theorem State.setLinkBusy_srAddr (v : Bool) (s : State) :
    (State.setLinkBusy v s).srAddr = s.srAddr := rfl

@[simp] theorem State.setLinkBusy_srData (v : Bool) (s : State) :
    (State.setLinkBusy v s).srData = s.srData := rfl

@[simp] theorem State.setLinkBusy_mem (v : Bool) (s : State) :
    (State.setLinkBusy v s).mem = s.mem := rfl

@[simp] theorem State.setLinkBusy_setting0 (v : Bool) (s : State) :
    (State.setLinkBusy v s).setting0 = s.setting0 := rfl

@[simp] theorem State.setLinkBusy_setting1 (v : Bool) (s : State) :
    (State.setLinkBusy v s).setting1 = s.setting1 := rfl

@[simp] theorem State.setLinkBusy_hist (v : Bool) (s : State) :
    (State.setLinkBusy v s).hist = s.hist := rfl

@[simp] theorem State.setLinkBusy_stream (v : Bool) (s : State) :
    (State.setLinkBusy v s).stream = s.stream := rfl

@[simp] theorem State.setLinkBusy_refused (v : Bool) (s : State) :
    (State.setLinkBusy v s).refused = s.refused := rfl

@[simp] theorem State.setLinkBusy_schedule (v : Bool) (s : State) :
    (State.setLinkBusy v s).schedule = s.schedule := rfl

@[simp] theorem State.setLinkBusy_hostShare (v : Bool) (s : State) :
    (State.setLinkBusy v s).hostShare = s.hostShare := rfl

@[simp] theorem State.setLinkBusy_endless (v : Bool) (s : State) :
    (State.setLinkBusy v s).endless = s.endless := rfl

@[simp] theorem State.setLinkBusy_moveDraws (v : Bool) (s : State) :
    (State.setLinkBusy v s).moveDraws = s.moveDraws := rfl

@[simp] theorem State.setLinkBusy_byteDraws (v : Bool) (s : State) :
    (State.setLinkBusy v s).byteDraws = s.byteDraws := rfl

@[simp] theorem State.setLinkBusy_edgeDraws (v : Bool) (s : State) :
    (State.setLinkBusy v s).edgeDraws = s.edgeDraws := rfl

@[simp] theorem State.setLinkBusy_frameOut (v : Bool) (s : State) :
    (State.setLinkBusy v s).frameOut = s.frameOut := rfl

@[simp] theorem State.setLinkBusy_frameIn (v : Bool) (s : State) :
    (State.setLinkBusy v s).frameIn = s.frameIn := rfl

@[simp] theorem State.setLinkBusy_linkBusy (v : Bool) (s : State) : (State.setLinkBusy v s).linkBusy = v := rfl

@[simp] theorem State.setStream_cfg (v : List Byte) (s : State) :
    (State.setStream v s).cfg = s.cfg := rfl

@[simp] theorem State.setStream_opA (v : List Byte) (s : State) :
    (State.setStream v s).opA = s.opA := rfl

@[simp] theorem State.setStream_opD (v : List Byte) (s : State) :
    (State.setStream v s).opD = s.opD := rfl

@[simp] theorem State.setStream_opN (v : List Byte) (s : State) :
    (State.setStream v s).opN = s.opN := rfl

@[simp] theorem State.setStream_opS (v : List Byte) (s : State) :
    (State.setStream v s).opS = s.opS := rfl

@[simp] theorem State.setStream_opT (v : List Byte) (s : State) :
    (State.setStream v s).opT = s.opT := rfl

@[simp] theorem State.setStream_q (v : List Byte) (s : State) :
    (State.setStream v s).q = s.q := rfl

@[simp] theorem State.setStream_qbuf (v : List Byte) (s : State) :
    (State.setStream v s).qbuf = s.qbuf := rfl

@[simp] theorem State.setStream_qt (v : List Byte) (s : State) :
    (State.setStream v s).qt = s.qt := rfl

@[simp] theorem State.setStream_cpos (v : List Byte) (s : State) :
    (State.setStream v s).cpos = s.cpos := rfl

@[simp] theorem State.setStream_runstate (v : List Byte) (s : State) :
    (State.setStream v s).runstate = s.runstate := rfl

@[simp] theorem State.setStream_arch (v : List Byte) (s : State) :
    (State.setStream v s).arch = s.arch := rfl

@[simp] theorem State.setStream_speed (v : List Byte) (s : State) :
    (State.setStream v s).speed = s.speed := rfl

@[simp] theorem State.setStream_tickArmed (v : List Byte) (s : State) :
    (State.setStream v s).tickArmed = s.tickArmed := rfl

@[simp] theorem State.setStream_doorbellLatch (v : List Byte) (s : State) :
    (State.setStream v s).doorbellLatch = s.doorbellLatch := rfl

@[simp] theorem State.setStream_dbPending (v : List Byte) (s : State) :
    (State.setStream v s).dbPending = s.dbPending := rfl

@[simp] theorem State.setStream_ie (v : List Byte) (s : State) :
    (State.setStream v s).ie = s.ie := rfl

@[simp] theorem State.setStream_doorbellIe (v : List Byte) (s : State) :
    (State.setStream v s).doorbellIe = s.doorbellIe := rfl

@[simp] theorem State.setStream_initialised (v : List Byte) (s : State) :
    (State.setStream v s).initialised = s.initialised := rfl

@[simp] theorem State.setStream_fault (v : List Byte) (s : State) :
    (State.setStream v s).fault = s.fault := rfl

@[simp] theorem State.setStream_linkBusy (v : List Byte) (s : State) :
    (State.setStream v s).linkBusy = s.linkBusy := rfl

@[simp] theorem State.setStream_arbPhase (v : List Byte) (s : State) :
    (State.setStream v s).arbPhase = s.arbPhase := rfl

@[simp] theorem State.setStream_arbWasRunning (v : List Byte) (s : State) :
    (State.setStream v s).arbWasRunning = s.arbWasRunning := rfl

@[simp] theorem State.setStream_archsel (v : List Byte) (s : State) :
    (State.setStream v s).archsel = s.archsel := rfl

@[simp] theorem State.setStream_speedsel (v : List Byte) (s : State) :
    (State.setStream v s).speedsel = s.speedsel := rfl

@[simp] theorem State.setStream_resetLine (v : List Byte) (s : State) :
    (State.setStream v s).resetLine = s.resetLine := rfl

@[simp] theorem State.setStream_busen (v : List Byte) (s : State) :
    (State.setStream v s).busen = s.busen := rfl

@[simp] theorem State.setStream_int (v : List Byte) (s : State) :
    (State.setStream v s).int = s.int := rfl

@[simp] theorem State.setStream_ack (v : List Byte) (s : State) :
    (State.setStream v s).ack = s.ack := rfl

@[simp] theorem State.setStream_aoe (v : List Byte) (s : State) :
    (State.setStream v s).aoe = s.aoe := rfl

@[simp] theorem State.setStream_rwn (v : List Byte) (s : State) :
    (State.setStream v s).rwn = s.rwn := rfl

@[simp] theorem State.setStream_latch (v : List Byte) (s : State) :
    (State.setStream v s).latch = s.latch := rfl

@[simp] theorem State.setStream_sclk (v : List Byte) (s : State) :
    (State.setStream v s).sclk = s.sclk := rfl

@[simp] theorem State.setStream_sdo (v : List Byte) (s : State) :
    (State.setStream v s).sdo = s.sdo := rfl

@[simp] theorem State.setStream_sdi (v : List Byte) (s : State) :
    (State.setStream v s).sdi = s.sdi := rfl

@[simp] theorem State.setStream_req (v : List Byte) (s : State) :
    (State.setStream v s).req = s.req := rfl

@[simp] theorem State.setStream_dbell (v : List Byte) (s : State) :
    (State.setStream v s).dbell = s.dbell := rfl

@[simp] theorem State.setStream_srAddr (v : List Byte) (s : State) :
    (State.setStream v s).srAddr = s.srAddr := rfl

@[simp] theorem State.setStream_srData (v : List Byte) (s : State) :
    (State.setStream v s).srData = s.srData := rfl

@[simp] theorem State.setStream_mem (v : List Byte) (s : State) :
    (State.setStream v s).mem = s.mem := rfl

@[simp] theorem State.setStream_setting0 (v : List Byte) (s : State) :
    (State.setStream v s).setting0 = s.setting0 := rfl

@[simp] theorem State.setStream_setting1 (v : List Byte) (s : State) :
    (State.setStream v s).setting1 = s.setting1 := rfl

@[simp] theorem State.setStream_hist (v : List Byte) (s : State) :
    (State.setStream v s).hist = s.hist := rfl

@[simp] theorem State.setStream_refused (v : List Byte) (s : State) :
    (State.setStream v s).refused = s.refused := rfl

@[simp] theorem State.setStream_schedule (v : List Byte) (s : State) :
    (State.setStream v s).schedule = s.schedule := rfl

@[simp] theorem State.setStream_hostShare (v : List Byte) (s : State) :
    (State.setStream v s).hostShare = s.hostShare := rfl

@[simp] theorem State.setStream_endless (v : List Byte) (s : State) :
    (State.setStream v s).endless = s.endless := rfl

@[simp] theorem State.setStream_moveDraws (v : List Byte) (s : State) :
    (State.setStream v s).moveDraws = s.moveDraws := rfl

@[simp] theorem State.setStream_byteDraws (v : List Byte) (s : State) :
    (State.setStream v s).byteDraws = s.byteDraws := rfl

@[simp] theorem State.setStream_edgeDraws (v : List Byte) (s : State) :
    (State.setStream v s).edgeDraws = s.edgeDraws := rfl

@[simp] theorem State.setStream_frameOut (v : List Byte) (s : State) :
    (State.setStream v s).frameOut = s.frameOut := rfl

@[simp] theorem State.setStream_frameIn (v : List Byte) (s : State) :
    (State.setStream v s).frameIn = s.frameIn := rfl

@[simp] theorem State.setStream_stream (v : List Byte) (s : State) : (State.setStream v s).stream = v := rfl

@[simp] theorem State.setSchedule_cfg (v : List (List Move)) (s : State) :
    (State.setSchedule v s).cfg = s.cfg := rfl

@[simp] theorem State.setSchedule_opA (v : List (List Move)) (s : State) :
    (State.setSchedule v s).opA = s.opA := rfl

@[simp] theorem State.setSchedule_opD (v : List (List Move)) (s : State) :
    (State.setSchedule v s).opD = s.opD := rfl

@[simp] theorem State.setSchedule_opN (v : List (List Move)) (s : State) :
    (State.setSchedule v s).opN = s.opN := rfl

@[simp] theorem State.setSchedule_opS (v : List (List Move)) (s : State) :
    (State.setSchedule v s).opS = s.opS := rfl

@[simp] theorem State.setSchedule_opT (v : List (List Move)) (s : State) :
    (State.setSchedule v s).opT = s.opT := rfl

@[simp] theorem State.setSchedule_q (v : List (List Move)) (s : State) :
    (State.setSchedule v s).q = s.q := rfl

@[simp] theorem State.setSchedule_qbuf (v : List (List Move)) (s : State) :
    (State.setSchedule v s).qbuf = s.qbuf := rfl

@[simp] theorem State.setSchedule_qt (v : List (List Move)) (s : State) :
    (State.setSchedule v s).qt = s.qt := rfl

@[simp] theorem State.setSchedule_cpos (v : List (List Move)) (s : State) :
    (State.setSchedule v s).cpos = s.cpos := rfl

@[simp] theorem State.setSchedule_runstate (v : List (List Move)) (s : State) :
    (State.setSchedule v s).runstate = s.runstate := rfl

@[simp] theorem State.setSchedule_arch (v : List (List Move)) (s : State) :
    (State.setSchedule v s).arch = s.arch := rfl

@[simp] theorem State.setSchedule_speed (v : List (List Move)) (s : State) :
    (State.setSchedule v s).speed = s.speed := rfl

@[simp] theorem State.setSchedule_tickArmed (v : List (List Move)) (s : State) :
    (State.setSchedule v s).tickArmed = s.tickArmed := rfl

@[simp] theorem State.setSchedule_doorbellLatch (v : List (List Move)) (s : State) :
    (State.setSchedule v s).doorbellLatch = s.doorbellLatch := rfl

@[simp] theorem State.setSchedule_dbPending (v : List (List Move)) (s : State) :
    (State.setSchedule v s).dbPending = s.dbPending := rfl

@[simp] theorem State.setSchedule_ie (v : List (List Move)) (s : State) :
    (State.setSchedule v s).ie = s.ie := rfl

@[simp] theorem State.setSchedule_doorbellIe (v : List (List Move)) (s : State) :
    (State.setSchedule v s).doorbellIe = s.doorbellIe := rfl

@[simp] theorem State.setSchedule_initialised (v : List (List Move)) (s : State) :
    (State.setSchedule v s).initialised = s.initialised := rfl

@[simp] theorem State.setSchedule_fault (v : List (List Move)) (s : State) :
    (State.setSchedule v s).fault = s.fault := rfl

@[simp] theorem State.setSchedule_linkBusy (v : List (List Move)) (s : State) :
    (State.setSchedule v s).linkBusy = s.linkBusy := rfl

@[simp] theorem State.setSchedule_arbPhase (v : List (List Move)) (s : State) :
    (State.setSchedule v s).arbPhase = s.arbPhase := rfl

@[simp] theorem State.setSchedule_arbWasRunning (v : List (List Move)) (s : State) :
    (State.setSchedule v s).arbWasRunning = s.arbWasRunning := rfl

@[simp] theorem State.setSchedule_archsel (v : List (List Move)) (s : State) :
    (State.setSchedule v s).archsel = s.archsel := rfl

@[simp] theorem State.setSchedule_speedsel (v : List (List Move)) (s : State) :
    (State.setSchedule v s).speedsel = s.speedsel := rfl

@[simp] theorem State.setSchedule_resetLine (v : List (List Move)) (s : State) :
    (State.setSchedule v s).resetLine = s.resetLine := rfl

@[simp] theorem State.setSchedule_busen (v : List (List Move)) (s : State) :
    (State.setSchedule v s).busen = s.busen := rfl

@[simp] theorem State.setSchedule_int (v : List (List Move)) (s : State) :
    (State.setSchedule v s).int = s.int := rfl

@[simp] theorem State.setSchedule_ack (v : List (List Move)) (s : State) :
    (State.setSchedule v s).ack = s.ack := rfl

@[simp] theorem State.setSchedule_aoe (v : List (List Move)) (s : State) :
    (State.setSchedule v s).aoe = s.aoe := rfl

@[simp] theorem State.setSchedule_rwn (v : List (List Move)) (s : State) :
    (State.setSchedule v s).rwn = s.rwn := rfl

@[simp] theorem State.setSchedule_latch (v : List (List Move)) (s : State) :
    (State.setSchedule v s).latch = s.latch := rfl

@[simp] theorem State.setSchedule_sclk (v : List (List Move)) (s : State) :
    (State.setSchedule v s).sclk = s.sclk := rfl

@[simp] theorem State.setSchedule_sdo (v : List (List Move)) (s : State) :
    (State.setSchedule v s).sdo = s.sdo := rfl

@[simp] theorem State.setSchedule_sdi (v : List (List Move)) (s : State) :
    (State.setSchedule v s).sdi = s.sdi := rfl

@[simp] theorem State.setSchedule_req (v : List (List Move)) (s : State) :
    (State.setSchedule v s).req = s.req := rfl

@[simp] theorem State.setSchedule_dbell (v : List (List Move)) (s : State) :
    (State.setSchedule v s).dbell = s.dbell := rfl

@[simp] theorem State.setSchedule_srAddr (v : List (List Move)) (s : State) :
    (State.setSchedule v s).srAddr = s.srAddr := rfl

@[simp] theorem State.setSchedule_srData (v : List (List Move)) (s : State) :
    (State.setSchedule v s).srData = s.srData := rfl

@[simp] theorem State.setSchedule_mem (v : List (List Move)) (s : State) :
    (State.setSchedule v s).mem = s.mem := rfl

@[simp] theorem State.setSchedule_setting0 (v : List (List Move)) (s : State) :
    (State.setSchedule v s).setting0 = s.setting0 := rfl

@[simp] theorem State.setSchedule_setting1 (v : List (List Move)) (s : State) :
    (State.setSchedule v s).setting1 = s.setting1 := rfl

@[simp] theorem State.setSchedule_hist (v : List (List Move)) (s : State) :
    (State.setSchedule v s).hist = s.hist := rfl

@[simp] theorem State.setSchedule_stream (v : List (List Move)) (s : State) :
    (State.setSchedule v s).stream = s.stream := rfl

@[simp] theorem State.setSchedule_refused (v : List (List Move)) (s : State) :
    (State.setSchedule v s).refused = s.refused := rfl

@[simp] theorem State.setSchedule_hostShare (v : List (List Move)) (s : State) :
    (State.setSchedule v s).hostShare = s.hostShare := rfl

@[simp] theorem State.setSchedule_endless (v : List (List Move)) (s : State) :
    (State.setSchedule v s).endless = s.endless := rfl

@[simp] theorem State.setSchedule_moveDraws (v : List (List Move)) (s : State) :
    (State.setSchedule v s).moveDraws = s.moveDraws := rfl

@[simp] theorem State.setSchedule_byteDraws (v : List (List Move)) (s : State) :
    (State.setSchedule v s).byteDraws = s.byteDraws := rfl

@[simp] theorem State.setSchedule_edgeDraws (v : List (List Move)) (s : State) :
    (State.setSchedule v s).edgeDraws = s.edgeDraws := rfl

@[simp] theorem State.setSchedule_frameOut (v : List (List Move)) (s : State) :
    (State.setSchedule v s).frameOut = s.frameOut := rfl

@[simp] theorem State.setSchedule_frameIn (v : List (List Move)) (s : State) :
    (State.setSchedule v s).frameIn = s.frameIn := rfl

@[simp] theorem State.setSchedule_schedule (v : List (List Move)) (s : State) : (State.setSchedule v s).schedule = v := rfl

@[simp] theorem State.setHostShare_cfg (v : Option Nat) (s : State) :
    (State.setHostShare v s).cfg = s.cfg := rfl

@[simp] theorem State.setHostShare_opA (v : Option Nat) (s : State) :
    (State.setHostShare v s).opA = s.opA := rfl

@[simp] theorem State.setHostShare_opD (v : Option Nat) (s : State) :
    (State.setHostShare v s).opD = s.opD := rfl

@[simp] theorem State.setHostShare_opN (v : Option Nat) (s : State) :
    (State.setHostShare v s).opN = s.opN := rfl

@[simp] theorem State.setHostShare_opS (v : Option Nat) (s : State) :
    (State.setHostShare v s).opS = s.opS := rfl

@[simp] theorem State.setHostShare_opT (v : Option Nat) (s : State) :
    (State.setHostShare v s).opT = s.opT := rfl

@[simp] theorem State.setHostShare_q (v : Option Nat) (s : State) :
    (State.setHostShare v s).q = s.q := rfl

@[simp] theorem State.setHostShare_qbuf (v : Option Nat) (s : State) :
    (State.setHostShare v s).qbuf = s.qbuf := rfl

@[simp] theorem State.setHostShare_qt (v : Option Nat) (s : State) :
    (State.setHostShare v s).qt = s.qt := rfl

@[simp] theorem State.setHostShare_cpos (v : Option Nat) (s : State) :
    (State.setHostShare v s).cpos = s.cpos := rfl

@[simp] theorem State.setHostShare_runstate (v : Option Nat) (s : State) :
    (State.setHostShare v s).runstate = s.runstate := rfl

@[simp] theorem State.setHostShare_arch (v : Option Nat) (s : State) :
    (State.setHostShare v s).arch = s.arch := rfl

@[simp] theorem State.setHostShare_speed (v : Option Nat) (s : State) :
    (State.setHostShare v s).speed = s.speed := rfl

@[simp] theorem State.setHostShare_tickArmed (v : Option Nat) (s : State) :
    (State.setHostShare v s).tickArmed = s.tickArmed := rfl

@[simp] theorem State.setHostShare_doorbellLatch (v : Option Nat) (s : State) :
    (State.setHostShare v s).doorbellLatch = s.doorbellLatch := rfl

@[simp] theorem State.setHostShare_dbPending (v : Option Nat) (s : State) :
    (State.setHostShare v s).dbPending = s.dbPending := rfl

@[simp] theorem State.setHostShare_ie (v : Option Nat) (s : State) :
    (State.setHostShare v s).ie = s.ie := rfl

@[simp] theorem State.setHostShare_doorbellIe (v : Option Nat) (s : State) :
    (State.setHostShare v s).doorbellIe = s.doorbellIe := rfl

@[simp] theorem State.setHostShare_initialised (v : Option Nat) (s : State) :
    (State.setHostShare v s).initialised = s.initialised := rfl

@[simp] theorem State.setHostShare_fault (v : Option Nat) (s : State) :
    (State.setHostShare v s).fault = s.fault := rfl

@[simp] theorem State.setHostShare_linkBusy (v : Option Nat) (s : State) :
    (State.setHostShare v s).linkBusy = s.linkBusy := rfl

@[simp] theorem State.setHostShare_arbPhase (v : Option Nat) (s : State) :
    (State.setHostShare v s).arbPhase = s.arbPhase := rfl

@[simp] theorem State.setHostShare_arbWasRunning (v : Option Nat) (s : State) :
    (State.setHostShare v s).arbWasRunning = s.arbWasRunning := rfl

@[simp] theorem State.setHostShare_archsel (v : Option Nat) (s : State) :
    (State.setHostShare v s).archsel = s.archsel := rfl

@[simp] theorem State.setHostShare_speedsel (v : Option Nat) (s : State) :
    (State.setHostShare v s).speedsel = s.speedsel := rfl

@[simp] theorem State.setHostShare_resetLine (v : Option Nat) (s : State) :
    (State.setHostShare v s).resetLine = s.resetLine := rfl

@[simp] theorem State.setHostShare_busen (v : Option Nat) (s : State) :
    (State.setHostShare v s).busen = s.busen := rfl

@[simp] theorem State.setHostShare_int (v : Option Nat) (s : State) :
    (State.setHostShare v s).int = s.int := rfl

@[simp] theorem State.setHostShare_ack (v : Option Nat) (s : State) :
    (State.setHostShare v s).ack = s.ack := rfl

@[simp] theorem State.setHostShare_aoe (v : Option Nat) (s : State) :
    (State.setHostShare v s).aoe = s.aoe := rfl

@[simp] theorem State.setHostShare_rwn (v : Option Nat) (s : State) :
    (State.setHostShare v s).rwn = s.rwn := rfl

@[simp] theorem State.setHostShare_latch (v : Option Nat) (s : State) :
    (State.setHostShare v s).latch = s.latch := rfl

@[simp] theorem State.setHostShare_sclk (v : Option Nat) (s : State) :
    (State.setHostShare v s).sclk = s.sclk := rfl

@[simp] theorem State.setHostShare_sdo (v : Option Nat) (s : State) :
    (State.setHostShare v s).sdo = s.sdo := rfl

@[simp] theorem State.setHostShare_sdi (v : Option Nat) (s : State) :
    (State.setHostShare v s).sdi = s.sdi := rfl

@[simp] theorem State.setHostShare_req (v : Option Nat) (s : State) :
    (State.setHostShare v s).req = s.req := rfl

@[simp] theorem State.setHostShare_dbell (v : Option Nat) (s : State) :
    (State.setHostShare v s).dbell = s.dbell := rfl

@[simp] theorem State.setHostShare_srAddr (v : Option Nat) (s : State) :
    (State.setHostShare v s).srAddr = s.srAddr := rfl

@[simp] theorem State.setHostShare_srData (v : Option Nat) (s : State) :
    (State.setHostShare v s).srData = s.srData := rfl

@[simp] theorem State.setHostShare_mem (v : Option Nat) (s : State) :
    (State.setHostShare v s).mem = s.mem := rfl

@[simp] theorem State.setHostShare_setting0 (v : Option Nat) (s : State) :
    (State.setHostShare v s).setting0 = s.setting0 := rfl

@[simp] theorem State.setHostShare_setting1 (v : Option Nat) (s : State) :
    (State.setHostShare v s).setting1 = s.setting1 := rfl

@[simp] theorem State.setHostShare_hist (v : Option Nat) (s : State) :
    (State.setHostShare v s).hist = s.hist := rfl

@[simp] theorem State.setHostShare_stream (v : Option Nat) (s : State) :
    (State.setHostShare v s).stream = s.stream := rfl

@[simp] theorem State.setHostShare_refused (v : Option Nat) (s : State) :
    (State.setHostShare v s).refused = s.refused := rfl

@[simp] theorem State.setHostShare_schedule (v : Option Nat) (s : State) :
    (State.setHostShare v s).schedule = s.schedule := rfl

@[simp] theorem State.setHostShare_endless (v : Option Nat) (s : State) :
    (State.setHostShare v s).endless = s.endless := rfl

@[simp] theorem State.setHostShare_moveDraws (v : Option Nat) (s : State) :
    (State.setHostShare v s).moveDraws = s.moveDraws := rfl

@[simp] theorem State.setHostShare_byteDraws (v : Option Nat) (s : State) :
    (State.setHostShare v s).byteDraws = s.byteDraws := rfl

@[simp] theorem State.setHostShare_edgeDraws (v : Option Nat) (s : State) :
    (State.setHostShare v s).edgeDraws = s.edgeDraws := rfl

@[simp] theorem State.setHostShare_frameOut (v : Option Nat) (s : State) :
    (State.setHostShare v s).frameOut = s.frameOut := rfl

@[simp] theorem State.setHostShare_frameIn (v : Option Nat) (s : State) :
    (State.setHostShare v s).frameIn = s.frameIn := rfl

@[simp] theorem State.setHostShare_hostShare (v : Option Nat) (s : State) : (State.setHostShare v s).hostShare = v := rfl

@[simp] theorem State.spend_cfg (s : State) :
    (State.spend s).cfg = s.cfg := by
  unfold State.spend; split <;> rfl

@[simp] theorem State.spend_opA (s : State) :
    (State.spend s).opA = s.opA := by
  unfold State.spend; split <;> rfl

@[simp] theorem State.spend_opD (s : State) :
    (State.spend s).opD = s.opD := by
  unfold State.spend; split <;> rfl

@[simp] theorem State.spend_opN (s : State) :
    (State.spend s).opN = s.opN := by
  unfold State.spend; split <;> rfl

@[simp] theorem State.spend_opS (s : State) :
    (State.spend s).opS = s.opS := by
  unfold State.spend; split <;> rfl

@[simp] theorem State.spend_opT (s : State) :
    (State.spend s).opT = s.opT := by
  unfold State.spend; split <;> rfl

@[simp] theorem State.spend_q (s : State) :
    (State.spend s).q = s.q := by
  unfold State.spend; split <;> rfl

@[simp] theorem State.spend_qbuf (s : State) :
    (State.spend s).qbuf = s.qbuf := by
  unfold State.spend; split <;> rfl

@[simp] theorem State.spend_qt (s : State) :
    (State.spend s).qt = s.qt := by
  unfold State.spend; split <;> rfl

@[simp] theorem State.spend_cpos (s : State) :
    (State.spend s).cpos = s.cpos := by
  unfold State.spend; split <;> rfl

@[simp] theorem State.spend_runstate (s : State) :
    (State.spend s).runstate = s.runstate := by
  unfold State.spend; split <;> rfl

@[simp] theorem State.spend_arch (s : State) :
    (State.spend s).arch = s.arch := by
  unfold State.spend; split <;> rfl

@[simp] theorem State.spend_speed (s : State) :
    (State.spend s).speed = s.speed := by
  unfold State.spend; split <;> rfl

@[simp] theorem State.spend_tickArmed (s : State) :
    (State.spend s).tickArmed = s.tickArmed := by
  unfold State.spend; split <;> rfl

@[simp] theorem State.spend_doorbellLatch (s : State) :
    (State.spend s).doorbellLatch = s.doorbellLatch := by
  unfold State.spend; split <;> rfl

@[simp] theorem State.spend_dbPending (s : State) :
    (State.spend s).dbPending = s.dbPending := by
  unfold State.spend; split <;> rfl

@[simp] theorem State.spend_ie (s : State) :
    (State.spend s).ie = s.ie := by
  unfold State.spend; split <;> rfl

@[simp] theorem State.spend_doorbellIe (s : State) :
    (State.spend s).doorbellIe = s.doorbellIe := by
  unfold State.spend; split <;> rfl

@[simp] theorem State.spend_initialised (s : State) :
    (State.spend s).initialised = s.initialised := by
  unfold State.spend; split <;> rfl

@[simp] theorem State.spend_fault (s : State) :
    (State.spend s).fault = s.fault := by
  unfold State.spend; split <;> rfl

@[simp] theorem State.spend_linkBusy (s : State) :
    (State.spend s).linkBusy = s.linkBusy := by
  unfold State.spend; split <;> rfl

@[simp] theorem State.spend_arbPhase (s : State) :
    (State.spend s).arbPhase = s.arbPhase := by
  unfold State.spend; split <;> rfl

@[simp] theorem State.spend_arbWasRunning (s : State) :
    (State.spend s).arbWasRunning = s.arbWasRunning := by
  unfold State.spend; split <;> rfl

@[simp] theorem State.spend_archsel (s : State) :
    (State.spend s).archsel = s.archsel := by
  unfold State.spend; split <;> rfl

@[simp] theorem State.spend_speedsel (s : State) :
    (State.spend s).speedsel = s.speedsel := by
  unfold State.spend; split <;> rfl

@[simp] theorem State.spend_resetLine (s : State) :
    (State.spend s).resetLine = s.resetLine := by
  unfold State.spend; split <;> rfl

@[simp] theorem State.spend_busen (s : State) :
    (State.spend s).busen = s.busen := by
  unfold State.spend; split <;> rfl

@[simp] theorem State.spend_int (s : State) :
    (State.spend s).int = s.int := by
  unfold State.spend; split <;> rfl

@[simp] theorem State.spend_ack (s : State) :
    (State.spend s).ack = s.ack := by
  unfold State.spend; split <;> rfl

@[simp] theorem State.spend_aoe (s : State) :
    (State.spend s).aoe = s.aoe := by
  unfold State.spend; split <;> rfl

@[simp] theorem State.spend_rwn (s : State) :
    (State.spend s).rwn = s.rwn := by
  unfold State.spend; split <;> rfl

@[simp] theorem State.spend_latch (s : State) :
    (State.spend s).latch = s.latch := by
  unfold State.spend; split <;> rfl

@[simp] theorem State.spend_sclk (s : State) :
    (State.spend s).sclk = s.sclk := by
  unfold State.spend; split <;> rfl

@[simp] theorem State.spend_sdo (s : State) :
    (State.spend s).sdo = s.sdo := by
  unfold State.spend; split <;> rfl

@[simp] theorem State.spend_sdi (s : State) :
    (State.spend s).sdi = s.sdi := by
  unfold State.spend; split <;> rfl

@[simp] theorem State.spend_req (s : State) :
    (State.spend s).req = s.req := by
  unfold State.spend; split <;> rfl

@[simp] theorem State.spend_dbell (s : State) :
    (State.spend s).dbell = s.dbell := by
  unfold State.spend; split <;> rfl

@[simp] theorem State.spend_srAddr (s : State) :
    (State.spend s).srAddr = s.srAddr := by
  unfold State.spend; split <;> rfl

@[simp] theorem State.spend_srData (s : State) :
    (State.spend s).srData = s.srData := by
  unfold State.spend; split <;> rfl

@[simp] theorem State.spend_mem (s : State) :
    (State.spend s).mem = s.mem := by
  unfold State.spend; split <;> rfl

@[simp] theorem State.spend_setting0 (s : State) :
    (State.spend s).setting0 = s.setting0 := by
  unfold State.spend; split <;> rfl

@[simp] theorem State.spend_setting1 (s : State) :
    (State.spend s).setting1 = s.setting1 := by
  unfold State.spend; split <;> rfl

@[simp] theorem State.spend_hist (s : State) :
    (State.spend s).hist = s.hist := by
  unfold State.spend; split <;> rfl

@[simp] theorem State.spend_stream (s : State) :
    (State.spend s).stream = s.stream := by
  unfold State.spend; split <;> rfl

@[simp] theorem State.spend_refused (s : State) :
    (State.spend s).refused = s.refused := by
  unfold State.spend; split <;> rfl

@[simp] theorem State.spend_schedule (s : State) :
    (State.spend s).schedule = s.schedule := by
  unfold State.spend; split <;> rfl

@[simp] theorem State.spend_endless (s : State) :
    (State.spend s).endless = s.endless := by
  unfold State.spend; split <;> rfl

@[simp] theorem State.spend_moveDraws (s : State) :
    (State.spend s).moveDraws = s.moveDraws := by
  unfold State.spend; split <;> rfl

@[simp] theorem State.spend_byteDraws (s : State) :
    (State.spend s).byteDraws = s.byteDraws := by
  unfold State.spend; split <;> rfl

@[simp] theorem State.spend_edgeDraws (s : State) :
    (State.spend s).edgeDraws = s.edgeDraws := by
  unfold State.spend; split <;> rfl

@[simp] theorem State.spend_frameOut (s : State) :
    (State.spend s).frameOut = s.frameOut := by
  unfold State.spend; split <;> rfl

@[simp] theorem State.spend_frameIn (s : State) :
    (State.spend s).frameIn = s.frameIn := by
  unfold State.spend; split <;> rfl

/-! ### Result and operand registers -/

@[simp] theorem State.setString_cfg (buf : List Byte) (b : Bool) (s : State) :
    (State.setString buf b s).cfg = s.cfg := rfl

@[simp] theorem State.setString_opA (buf : List Byte) (b : Bool) (s : State) :
    (State.setString buf b s).opA = s.opA := rfl

@[simp] theorem State.setString_opD (buf : List Byte) (b : Bool) (s : State) :
    (State.setString buf b s).opD = s.opD := rfl

@[simp] theorem State.setString_opN (buf : List Byte) (b : Bool) (s : State) :
    (State.setString buf b s).opN = s.opN := rfl

@[simp] theorem State.setString_opS (buf : List Byte) (b : Bool) (s : State) :
    (State.setString buf b s).opS = s.opS := rfl

@[simp] theorem State.setString_opT (buf : List Byte) (b : Bool) (s : State) :
    (State.setString buf b s).opT = s.opT := rfl

@[simp] theorem State.setString_q (buf : List Byte) (b : Bool) (s : State) :
    (State.setString buf b s).q = s.q := rfl

@[simp] theorem State.setString_cpos (buf : List Byte) (b : Bool) (s : State) :
    (State.setString buf b s).cpos = s.cpos := rfl

@[simp] theorem State.setString_runstate (buf : List Byte) (b : Bool) (s : State) :
    (State.setString buf b s).runstate = s.runstate := rfl

@[simp] theorem State.setString_arch (buf : List Byte) (b : Bool) (s : State) :
    (State.setString buf b s).arch = s.arch := rfl

@[simp] theorem State.setString_speed (buf : List Byte) (b : Bool) (s : State) :
    (State.setString buf b s).speed = s.speed := rfl

@[simp] theorem State.setString_tickArmed (buf : List Byte) (b : Bool) (s : State) :
    (State.setString buf b s).tickArmed = s.tickArmed := rfl

@[simp] theorem State.setString_doorbellLatch (buf : List Byte) (b : Bool) (s : State) :
    (State.setString buf b s).doorbellLatch = s.doorbellLatch := rfl

@[simp] theorem State.setString_dbPending (buf : List Byte) (b : Bool) (s : State) :
    (State.setString buf b s).dbPending = s.dbPending := rfl

@[simp] theorem State.setString_ie (buf : List Byte) (b : Bool) (s : State) :
    (State.setString buf b s).ie = s.ie := rfl

@[simp] theorem State.setString_doorbellIe (buf : List Byte) (b : Bool) (s : State) :
    (State.setString buf b s).doorbellIe = s.doorbellIe := rfl

@[simp] theorem State.setString_initialised (buf : List Byte) (b : Bool) (s : State) :
    (State.setString buf b s).initialised = s.initialised := rfl

@[simp] theorem State.setString_fault (buf : List Byte) (b : Bool) (s : State) :
    (State.setString buf b s).fault = s.fault := rfl

@[simp] theorem State.setString_linkBusy (buf : List Byte) (b : Bool) (s : State) :
    (State.setString buf b s).linkBusy = s.linkBusy := rfl

@[simp] theorem State.setString_arbPhase (buf : List Byte) (b : Bool) (s : State) :
    (State.setString buf b s).arbPhase = s.arbPhase := rfl

@[simp] theorem State.setString_arbWasRunning (buf : List Byte) (b : Bool) (s : State) :
    (State.setString buf b s).arbWasRunning = s.arbWasRunning := rfl

@[simp] theorem State.setString_archsel (buf : List Byte) (b : Bool) (s : State) :
    (State.setString buf b s).archsel = s.archsel := rfl

@[simp] theorem State.setString_speedsel (buf : List Byte) (b : Bool) (s : State) :
    (State.setString buf b s).speedsel = s.speedsel := rfl

@[simp] theorem State.setString_resetLine (buf : List Byte) (b : Bool) (s : State) :
    (State.setString buf b s).resetLine = s.resetLine := rfl

@[simp] theorem State.setString_busen (buf : List Byte) (b : Bool) (s : State) :
    (State.setString buf b s).busen = s.busen := rfl

@[simp] theorem State.setString_int (buf : List Byte) (b : Bool) (s : State) :
    (State.setString buf b s).int = s.int := rfl

@[simp] theorem State.setString_ack (buf : List Byte) (b : Bool) (s : State) :
    (State.setString buf b s).ack = s.ack := rfl

@[simp] theorem State.setString_aoe (buf : List Byte) (b : Bool) (s : State) :
    (State.setString buf b s).aoe = s.aoe := rfl

@[simp] theorem State.setString_rwn (buf : List Byte) (b : Bool) (s : State) :
    (State.setString buf b s).rwn = s.rwn := rfl

@[simp] theorem State.setString_latch (buf : List Byte) (b : Bool) (s : State) :
    (State.setString buf b s).latch = s.latch := rfl

@[simp] theorem State.setString_sclk (buf : List Byte) (b : Bool) (s : State) :
    (State.setString buf b s).sclk = s.sclk := rfl

@[simp] theorem State.setString_sdo (buf : List Byte) (b : Bool) (s : State) :
    (State.setString buf b s).sdo = s.sdo := rfl

@[simp] theorem State.setString_sdi (buf : List Byte) (b : Bool) (s : State) :
    (State.setString buf b s).sdi = s.sdi := rfl

@[simp] theorem State.setString_req (buf : List Byte) (b : Bool) (s : State) :
    (State.setString buf b s).req = s.req := rfl

@[simp] theorem State.setString_dbell (buf : List Byte) (b : Bool) (s : State) :
    (State.setString buf b s).dbell = s.dbell := rfl

@[simp] theorem State.setString_srAddr (buf : List Byte) (b : Bool) (s : State) :
    (State.setString buf b s).srAddr = s.srAddr := rfl

@[simp] theorem State.setString_srData (buf : List Byte) (b : Bool) (s : State) :
    (State.setString buf b s).srData = s.srData := rfl

@[simp] theorem State.setString_mem (buf : List Byte) (b : Bool) (s : State) :
    (State.setString buf b s).mem = s.mem := rfl

@[simp] theorem State.setString_setting0 (buf : List Byte) (b : Bool) (s : State) :
    (State.setString buf b s).setting0 = s.setting0 := rfl

@[simp] theorem State.setString_setting1 (buf : List Byte) (b : Bool) (s : State) :
    (State.setString buf b s).setting1 = s.setting1 := rfl

@[simp] theorem State.setString_hist (buf : List Byte) (b : Bool) (s : State) :
    (State.setString buf b s).hist = s.hist := rfl

@[simp] theorem State.setString_stream (buf : List Byte) (b : Bool) (s : State) :
    (State.setString buf b s).stream = s.stream := rfl

@[simp] theorem State.setString_refused (buf : List Byte) (b : Bool) (s : State) :
    (State.setString buf b s).refused = s.refused := rfl

@[simp] theorem State.setString_schedule (buf : List Byte) (b : Bool) (s : State) :
    (State.setString buf b s).schedule = s.schedule := rfl

@[simp] theorem State.setString_hostShare (buf : List Byte) (b : Bool) (s : State) :
    (State.setString buf b s).hostShare = s.hostShare := rfl

@[simp] theorem State.setString_endless (buf : List Byte) (b : Bool) (s : State) :
    (State.setString buf b s).endless = s.endless := rfl

@[simp] theorem State.setString_moveDraws (buf : List Byte) (b : Bool) (s : State) :
    (State.setString buf b s).moveDraws = s.moveDraws := rfl

@[simp] theorem State.setString_byteDraws (buf : List Byte) (b : Bool) (s : State) :
    (State.setString buf b s).byteDraws = s.byteDraws := rfl

@[simp] theorem State.setString_edgeDraws (buf : List Byte) (b : Bool) (s : State) :
    (State.setString buf b s).edgeDraws = s.edgeDraws := rfl

@[simp] theorem State.setString_frameOut (buf : List Byte) (b : Bool) (s : State) :
    (State.setString buf b s).frameOut = s.frameOut := rfl

@[simp] theorem State.setString_frameIn (buf : List Byte) (b : Bool) (s : State) :
    (State.setString buf b s).frameIn = s.frameIn := rfl

@[simp] theorem State.setString_qbuf (buf : List Byte) (b : Bool) (s : State) :
    (State.setString buf b s).qbuf = buf := rfl

@[simp] theorem State.setString_qt (buf : List Byte) (b : Bool) (s : State) :
    (State.setString buf b s).qt = b := rfl

@[simp] theorem State.startString_cfg (s : State) :
    (State.startString s).cfg = s.cfg := by
  unfold State.startString; split <;> rfl

@[simp] theorem State.startString_opA (s : State) :
    (State.startString s).opA = s.opA := by
  unfold State.startString; split <;> rfl

@[simp] theorem State.startString_opD (s : State) :
    (State.startString s).opD = s.opD := by
  unfold State.startString; split <;> rfl

@[simp] theorem State.startString_opN (s : State) :
    (State.startString s).opN = s.opN := by
  unfold State.startString; split <;> rfl

@[simp] theorem State.startString_opS (s : State) :
    (State.startString s).opS = s.opS := by
  unfold State.startString; split <;> rfl

@[simp] theorem State.startString_opT (s : State) :
    (State.startString s).opT = s.opT := by
  unfold State.startString; split <;> rfl

@[simp] theorem State.startString_q (s : State) :
    (State.startString s).q = s.q := by
  unfold State.startString; split <;> rfl

@[simp] theorem State.startString_cpos (s : State) :
    (State.startString s).cpos = s.cpos := by
  unfold State.startString; split <;> rfl

@[simp] theorem State.startString_runstate (s : State) :
    (State.startString s).runstate = s.runstate := by
  unfold State.startString; split <;> rfl

@[simp] theorem State.startString_arch (s : State) :
    (State.startString s).arch = s.arch := by
  unfold State.startString; split <;> rfl

@[simp] theorem State.startString_speed (s : State) :
    (State.startString s).speed = s.speed := by
  unfold State.startString; split <;> rfl

@[simp] theorem State.startString_tickArmed (s : State) :
    (State.startString s).tickArmed = s.tickArmed := by
  unfold State.startString; split <;> rfl

@[simp] theorem State.startString_doorbellLatch (s : State) :
    (State.startString s).doorbellLatch = s.doorbellLatch := by
  unfold State.startString; split <;> rfl

@[simp] theorem State.startString_dbPending (s : State) :
    (State.startString s).dbPending = s.dbPending := by
  unfold State.startString; split <;> rfl

@[simp] theorem State.startString_ie (s : State) :
    (State.startString s).ie = s.ie := by
  unfold State.startString; split <;> rfl

@[simp] theorem State.startString_doorbellIe (s : State) :
    (State.startString s).doorbellIe = s.doorbellIe := by
  unfold State.startString; split <;> rfl

@[simp] theorem State.startString_initialised (s : State) :
    (State.startString s).initialised = s.initialised := by
  unfold State.startString; split <;> rfl

@[simp] theorem State.startString_fault (s : State) :
    (State.startString s).fault = s.fault := by
  unfold State.startString; split <;> rfl

@[simp] theorem State.startString_linkBusy (s : State) :
    (State.startString s).linkBusy = s.linkBusy := by
  unfold State.startString; split <;> rfl

@[simp] theorem State.startString_arbPhase (s : State) :
    (State.startString s).arbPhase = s.arbPhase := by
  unfold State.startString; split <;> rfl

@[simp] theorem State.startString_arbWasRunning (s : State) :
    (State.startString s).arbWasRunning = s.arbWasRunning := by
  unfold State.startString; split <;> rfl

@[simp] theorem State.startString_archsel (s : State) :
    (State.startString s).archsel = s.archsel := by
  unfold State.startString; split <;> rfl

@[simp] theorem State.startString_speedsel (s : State) :
    (State.startString s).speedsel = s.speedsel := by
  unfold State.startString; split <;> rfl

@[simp] theorem State.startString_resetLine (s : State) :
    (State.startString s).resetLine = s.resetLine := by
  unfold State.startString; split <;> rfl

@[simp] theorem State.startString_busen (s : State) :
    (State.startString s).busen = s.busen := by
  unfold State.startString; split <;> rfl

@[simp] theorem State.startString_int (s : State) :
    (State.startString s).int = s.int := by
  unfold State.startString; split <;> rfl

@[simp] theorem State.startString_ack (s : State) :
    (State.startString s).ack = s.ack := by
  unfold State.startString; split <;> rfl

@[simp] theorem State.startString_aoe (s : State) :
    (State.startString s).aoe = s.aoe := by
  unfold State.startString; split <;> rfl

@[simp] theorem State.startString_rwn (s : State) :
    (State.startString s).rwn = s.rwn := by
  unfold State.startString; split <;> rfl

@[simp] theorem State.startString_latch (s : State) :
    (State.startString s).latch = s.latch := by
  unfold State.startString; split <;> rfl

@[simp] theorem State.startString_sclk (s : State) :
    (State.startString s).sclk = s.sclk := by
  unfold State.startString; split <;> rfl

@[simp] theorem State.startString_sdo (s : State) :
    (State.startString s).sdo = s.sdo := by
  unfold State.startString; split <;> rfl

@[simp] theorem State.startString_sdi (s : State) :
    (State.startString s).sdi = s.sdi := by
  unfold State.startString; split <;> rfl

@[simp] theorem State.startString_req (s : State) :
    (State.startString s).req = s.req := by
  unfold State.startString; split <;> rfl

@[simp] theorem State.startString_dbell (s : State) :
    (State.startString s).dbell = s.dbell := by
  unfold State.startString; split <;> rfl

@[simp] theorem State.startString_srAddr (s : State) :
    (State.startString s).srAddr = s.srAddr := by
  unfold State.startString; split <;> rfl

@[simp] theorem State.startString_srData (s : State) :
    (State.startString s).srData = s.srData := by
  unfold State.startString; split <;> rfl

@[simp] theorem State.startString_mem (s : State) :
    (State.startString s).mem = s.mem := by
  unfold State.startString; split <;> rfl

@[simp] theorem State.startString_setting0 (s : State) :
    (State.startString s).setting0 = s.setting0 := by
  unfold State.startString; split <;> rfl

@[simp] theorem State.startString_setting1 (s : State) :
    (State.startString s).setting1 = s.setting1 := by
  unfold State.startString; split <;> rfl

@[simp] theorem State.startString_hist (s : State) :
    (State.startString s).hist = s.hist := by
  unfold State.startString; split <;> rfl

@[simp] theorem State.startString_stream (s : State) :
    (State.startString s).stream = s.stream := by
  unfold State.startString; split <;> rfl

@[simp] theorem State.startString_refused (s : State) :
    (State.startString s).refused = s.refused := by
  unfold State.startString; split <;> rfl

@[simp] theorem State.startString_schedule (s : State) :
    (State.startString s).schedule = s.schedule := by
  unfold State.startString; split <;> rfl

@[simp] theorem State.startString_hostShare (s : State) :
    (State.startString s).hostShare = s.hostShare := by
  unfold State.startString; split <;> rfl

@[simp] theorem State.startString_endless (s : State) :
    (State.startString s).endless = s.endless := by
  unfold State.startString; split <;> rfl

@[simp] theorem State.startString_moveDraws (s : State) :
    (State.startString s).moveDraws = s.moveDraws := by
  unfold State.startString; split <;> rfl

@[simp] theorem State.startString_byteDraws (s : State) :
    (State.startString s).byteDraws = s.byteDraws := by
  unfold State.startString; split <;> rfl

@[simp] theorem State.startString_edgeDraws (s : State) :
    (State.startString s).edgeDraws = s.edgeDraws := by
  unfold State.startString; split <;> rfl

@[simp] theorem State.startString_frameOut (s : State) :
    (State.startString s).frameOut = s.frameOut := by
  unfold State.startString; split <;> rfl

@[simp] theorem State.startString_frameIn (s : State) :
    (State.startString s).frameIn = s.frameIn := by
  unfold State.startString; split <;> rfl

@[simp] theorem State.latchOperands_cfg (i : Instr) (s : State) :
    (State.latchOperands i s).cfg = s.cfg := by cases i <;> rfl

@[simp] theorem State.latchOperands_q (i : Instr) (s : State) :
    (State.latchOperands i s).q = s.q := by cases i <;> rfl

@[simp] theorem State.latchOperands_qbuf (i : Instr) (s : State) :
    (State.latchOperands i s).qbuf = s.qbuf := by cases i <;> rfl

@[simp] theorem State.latchOperands_qt (i : Instr) (s : State) :
    (State.latchOperands i s).qt = s.qt := by cases i <;> rfl

@[simp] theorem State.latchOperands_cpos (i : Instr) (s : State) :
    (State.latchOperands i s).cpos = s.cpos := by cases i <;> rfl

@[simp] theorem State.latchOperands_runstate (i : Instr) (s : State) :
    (State.latchOperands i s).runstate = s.runstate := by cases i <;> rfl

@[simp] theorem State.latchOperands_arch (i : Instr) (s : State) :
    (State.latchOperands i s).arch = s.arch := by cases i <;> rfl

@[simp] theorem State.latchOperands_speed (i : Instr) (s : State) :
    (State.latchOperands i s).speed = s.speed := by cases i <;> rfl

@[simp] theorem State.latchOperands_tickArmed (i : Instr) (s : State) :
    (State.latchOperands i s).tickArmed = s.tickArmed := by cases i <;> rfl

@[simp] theorem State.latchOperands_doorbellLatch (i : Instr) (s : State) :
    (State.latchOperands i s).doorbellLatch = s.doorbellLatch := by cases i <;> rfl

@[simp] theorem State.latchOperands_dbPending (i : Instr) (s : State) :
    (State.latchOperands i s).dbPending = s.dbPending := by cases i <;> rfl

@[simp] theorem State.latchOperands_ie (i : Instr) (s : State) :
    (State.latchOperands i s).ie = s.ie := by cases i <;> rfl

@[simp] theorem State.latchOperands_doorbellIe (i : Instr) (s : State) :
    (State.latchOperands i s).doorbellIe = s.doorbellIe := by cases i <;> rfl

@[simp] theorem State.latchOperands_initialised (i : Instr) (s : State) :
    (State.latchOperands i s).initialised = s.initialised := by cases i <;> rfl

@[simp] theorem State.latchOperands_fault (i : Instr) (s : State) :
    (State.latchOperands i s).fault = s.fault := by cases i <;> rfl

@[simp] theorem State.latchOperands_linkBusy (i : Instr) (s : State) :
    (State.latchOperands i s).linkBusy = s.linkBusy := by cases i <;> rfl

@[simp] theorem State.latchOperands_arbPhase (i : Instr) (s : State) :
    (State.latchOperands i s).arbPhase = s.arbPhase := by cases i <;> rfl

@[simp] theorem State.latchOperands_arbWasRunning (i : Instr) (s : State) :
    (State.latchOperands i s).arbWasRunning = s.arbWasRunning := by cases i <;> rfl

@[simp] theorem State.latchOperands_archsel (i : Instr) (s : State) :
    (State.latchOperands i s).archsel = s.archsel := by cases i <;> rfl

@[simp] theorem State.latchOperands_speedsel (i : Instr) (s : State) :
    (State.latchOperands i s).speedsel = s.speedsel := by cases i <;> rfl

@[simp] theorem State.latchOperands_resetLine (i : Instr) (s : State) :
    (State.latchOperands i s).resetLine = s.resetLine := by cases i <;> rfl

@[simp] theorem State.latchOperands_busen (i : Instr) (s : State) :
    (State.latchOperands i s).busen = s.busen := by cases i <;> rfl

@[simp] theorem State.latchOperands_int (i : Instr) (s : State) :
    (State.latchOperands i s).int = s.int := by cases i <;> rfl

@[simp] theorem State.latchOperands_ack (i : Instr) (s : State) :
    (State.latchOperands i s).ack = s.ack := by cases i <;> rfl

@[simp] theorem State.latchOperands_aoe (i : Instr) (s : State) :
    (State.latchOperands i s).aoe = s.aoe := by cases i <;> rfl

@[simp] theorem State.latchOperands_rwn (i : Instr) (s : State) :
    (State.latchOperands i s).rwn = s.rwn := by cases i <;> rfl

@[simp] theorem State.latchOperands_latch (i : Instr) (s : State) :
    (State.latchOperands i s).latch = s.latch := by cases i <;> rfl

@[simp] theorem State.latchOperands_sclk (i : Instr) (s : State) :
    (State.latchOperands i s).sclk = s.sclk := by cases i <;> rfl

@[simp] theorem State.latchOperands_sdo (i : Instr) (s : State) :
    (State.latchOperands i s).sdo = s.sdo := by cases i <;> rfl

@[simp] theorem State.latchOperands_sdi (i : Instr) (s : State) :
    (State.latchOperands i s).sdi = s.sdi := by cases i <;> rfl

@[simp] theorem State.latchOperands_req (i : Instr) (s : State) :
    (State.latchOperands i s).req = s.req := by cases i <;> rfl

@[simp] theorem State.latchOperands_dbell (i : Instr) (s : State) :
    (State.latchOperands i s).dbell = s.dbell := by cases i <;> rfl

@[simp] theorem State.latchOperands_srAddr (i : Instr) (s : State) :
    (State.latchOperands i s).srAddr = s.srAddr := by cases i <;> rfl

@[simp] theorem State.latchOperands_srData (i : Instr) (s : State) :
    (State.latchOperands i s).srData = s.srData := by cases i <;> rfl

@[simp] theorem State.latchOperands_mem (i : Instr) (s : State) :
    (State.latchOperands i s).mem = s.mem := by cases i <;> rfl

@[simp] theorem State.latchOperands_setting0 (i : Instr) (s : State) :
    (State.latchOperands i s).setting0 = s.setting0 := by cases i <;> rfl

@[simp] theorem State.latchOperands_setting1 (i : Instr) (s : State) :
    (State.latchOperands i s).setting1 = s.setting1 := by cases i <;> rfl

@[simp] theorem State.latchOperands_hist (i : Instr) (s : State) :
    (State.latchOperands i s).hist = s.hist := by cases i <;> rfl

@[simp] theorem State.latchOperands_stream (i : Instr) (s : State) :
    (State.latchOperands i s).stream = s.stream := by cases i <;> rfl

@[simp] theorem State.latchOperands_refused (i : Instr) (s : State) :
    (State.latchOperands i s).refused = s.refused := by cases i <;> rfl

@[simp] theorem State.latchOperands_schedule (i : Instr) (s : State) :
    (State.latchOperands i s).schedule = s.schedule := by cases i <;> rfl

@[simp] theorem State.latchOperands_hostShare (i : Instr) (s : State) :
    (State.latchOperands i s).hostShare = s.hostShare := by cases i <;> rfl

@[simp] theorem State.latchOperands_endless (i : Instr) (s : State) :
    (State.latchOperands i s).endless = s.endless := by cases i <;> rfl

@[simp] theorem State.latchOperands_moveDraws (i : Instr) (s : State) :
    (State.latchOperands i s).moveDraws = s.moveDraws := by cases i <;> rfl

@[simp] theorem State.latchOperands_byteDraws (i : Instr) (s : State) :
    (State.latchOperands i s).byteDraws = s.byteDraws := by cases i <;> rfl

@[simp] theorem State.latchOperands_edgeDraws (i : Instr) (s : State) :
    (State.latchOperands i s).edgeDraws = s.edgeDraws := by cases i <;> rfl

@[simp] theorem State.latchOperands_frameOut (i : Instr) (s : State) :
    (State.latchOperands i s).frameOut = s.frameOut := by cases i <;> rfl

@[simp] theorem State.latchOperands_frameIn (i : Instr) (s : State) :
    (State.latchOperands i s).frameIn = s.frameIn := by cases i <;> rfl

/-! ### Memory, history, lines, settings, fault register -/

@[simp] theorem State.setMem_cfg (a : Addr) (v : Byte) (s : State) :
    (State.setMem a v s).cfg = s.cfg := rfl

@[simp] theorem State.setMem_opA (a : Addr) (v : Byte) (s : State) :
    (State.setMem a v s).opA = s.opA := rfl

@[simp] theorem State.setMem_opD (a : Addr) (v : Byte) (s : State) :
    (State.setMem a v s).opD = s.opD := rfl

@[simp] theorem State.setMem_opN (a : Addr) (v : Byte) (s : State) :
    (State.setMem a v s).opN = s.opN := rfl

@[simp] theorem State.setMem_opS (a : Addr) (v : Byte) (s : State) :
    (State.setMem a v s).opS = s.opS := rfl

@[simp] theorem State.setMem_opT (a : Addr) (v : Byte) (s : State) :
    (State.setMem a v s).opT = s.opT := rfl

@[simp] theorem State.setMem_q (a : Addr) (v : Byte) (s : State) :
    (State.setMem a v s).q = s.q := rfl

@[simp] theorem State.setMem_qbuf (a : Addr) (v : Byte) (s : State) :
    (State.setMem a v s).qbuf = s.qbuf := rfl

@[simp] theorem State.setMem_qt (a : Addr) (v : Byte) (s : State) :
    (State.setMem a v s).qt = s.qt := rfl

@[simp] theorem State.setMem_cpos (a : Addr) (v : Byte) (s : State) :
    (State.setMem a v s).cpos = s.cpos := rfl

@[simp] theorem State.setMem_runstate (a : Addr) (v : Byte) (s : State) :
    (State.setMem a v s).runstate = s.runstate := rfl

@[simp] theorem State.setMem_arch (a : Addr) (v : Byte) (s : State) :
    (State.setMem a v s).arch = s.arch := rfl

@[simp] theorem State.setMem_speed (a : Addr) (v : Byte) (s : State) :
    (State.setMem a v s).speed = s.speed := rfl

@[simp] theorem State.setMem_tickArmed (a : Addr) (v : Byte) (s : State) :
    (State.setMem a v s).tickArmed = s.tickArmed := rfl

@[simp] theorem State.setMem_doorbellLatch (a : Addr) (v : Byte) (s : State) :
    (State.setMem a v s).doorbellLatch = s.doorbellLatch := rfl

@[simp] theorem State.setMem_dbPending (a : Addr) (v : Byte) (s : State) :
    (State.setMem a v s).dbPending = s.dbPending := rfl

@[simp] theorem State.setMem_ie (a : Addr) (v : Byte) (s : State) :
    (State.setMem a v s).ie = s.ie := rfl

@[simp] theorem State.setMem_doorbellIe (a : Addr) (v : Byte) (s : State) :
    (State.setMem a v s).doorbellIe = s.doorbellIe := rfl

@[simp] theorem State.setMem_initialised (a : Addr) (v : Byte) (s : State) :
    (State.setMem a v s).initialised = s.initialised := rfl

@[simp] theorem State.setMem_fault (a : Addr) (v : Byte) (s : State) :
    (State.setMem a v s).fault = s.fault := rfl

@[simp] theorem State.setMem_linkBusy (a : Addr) (v : Byte) (s : State) :
    (State.setMem a v s).linkBusy = s.linkBusy := rfl

@[simp] theorem State.setMem_arbPhase (a : Addr) (v : Byte) (s : State) :
    (State.setMem a v s).arbPhase = s.arbPhase := rfl

@[simp] theorem State.setMem_arbWasRunning (a : Addr) (v : Byte) (s : State) :
    (State.setMem a v s).arbWasRunning = s.arbWasRunning := rfl

@[simp] theorem State.setMem_archsel (a : Addr) (v : Byte) (s : State) :
    (State.setMem a v s).archsel = s.archsel := rfl

@[simp] theorem State.setMem_speedsel (a : Addr) (v : Byte) (s : State) :
    (State.setMem a v s).speedsel = s.speedsel := rfl

@[simp] theorem State.setMem_resetLine (a : Addr) (v : Byte) (s : State) :
    (State.setMem a v s).resetLine = s.resetLine := rfl

@[simp] theorem State.setMem_busen (a : Addr) (v : Byte) (s : State) :
    (State.setMem a v s).busen = s.busen := rfl

@[simp] theorem State.setMem_int (a : Addr) (v : Byte) (s : State) :
    (State.setMem a v s).int = s.int := rfl

@[simp] theorem State.setMem_ack (a : Addr) (v : Byte) (s : State) :
    (State.setMem a v s).ack = s.ack := rfl

@[simp] theorem State.setMem_aoe (a : Addr) (v : Byte) (s : State) :
    (State.setMem a v s).aoe = s.aoe := rfl

@[simp] theorem State.setMem_rwn (a : Addr) (v : Byte) (s : State) :
    (State.setMem a v s).rwn = s.rwn := rfl

@[simp] theorem State.setMem_latch (a : Addr) (v : Byte) (s : State) :
    (State.setMem a v s).latch = s.latch := rfl

@[simp] theorem State.setMem_sclk (a : Addr) (v : Byte) (s : State) :
    (State.setMem a v s).sclk = s.sclk := rfl

@[simp] theorem State.setMem_sdo (a : Addr) (v : Byte) (s : State) :
    (State.setMem a v s).sdo = s.sdo := rfl

@[simp] theorem State.setMem_sdi (a : Addr) (v : Byte) (s : State) :
    (State.setMem a v s).sdi = s.sdi := rfl

@[simp] theorem State.setMem_req (a : Addr) (v : Byte) (s : State) :
    (State.setMem a v s).req = s.req := rfl

@[simp] theorem State.setMem_dbell (a : Addr) (v : Byte) (s : State) :
    (State.setMem a v s).dbell = s.dbell := rfl

@[simp] theorem State.setMem_srAddr (a : Addr) (v : Byte) (s : State) :
    (State.setMem a v s).srAddr = s.srAddr := rfl

@[simp] theorem State.setMem_srData (a : Addr) (v : Byte) (s : State) :
    (State.setMem a v s).srData = s.srData := rfl

@[simp] theorem State.setMem_setting0 (a : Addr) (v : Byte) (s : State) :
    (State.setMem a v s).setting0 = s.setting0 := rfl

@[simp] theorem State.setMem_setting1 (a : Addr) (v : Byte) (s : State) :
    (State.setMem a v s).setting1 = s.setting1 := rfl

@[simp] theorem State.setMem_hist (a : Addr) (v : Byte) (s : State) :
    (State.setMem a v s).hist = s.hist := rfl

@[simp] theorem State.setMem_stream (a : Addr) (v : Byte) (s : State) :
    (State.setMem a v s).stream = s.stream := rfl

@[simp] theorem State.setMem_refused (a : Addr) (v : Byte) (s : State) :
    (State.setMem a v s).refused = s.refused := rfl

@[simp] theorem State.setMem_schedule (a : Addr) (v : Byte) (s : State) :
    (State.setMem a v s).schedule = s.schedule := rfl

@[simp] theorem State.setMem_hostShare (a : Addr) (v : Byte) (s : State) :
    (State.setMem a v s).hostShare = s.hostShare := rfl

@[simp] theorem State.setMem_endless (a : Addr) (v : Byte) (s : State) :
    (State.setMem a v s).endless = s.endless := rfl

@[simp] theorem State.setMem_moveDraws (a : Addr) (v : Byte) (s : State) :
    (State.setMem a v s).moveDraws = s.moveDraws := rfl

@[simp] theorem State.setMem_byteDraws (a : Addr) (v : Byte) (s : State) :
    (State.setMem a v s).byteDraws = s.byteDraws := rfl

@[simp] theorem State.setMem_edgeDraws (a : Addr) (v : Byte) (s : State) :
    (State.setMem a v s).edgeDraws = s.edgeDraws := rfl

@[simp] theorem State.setMem_frameOut (a : Addr) (v : Byte) (s : State) :
    (State.setMem a v s).frameOut = s.frameOut := rfl

@[simp] theorem State.setMem_frameIn (a : Addr) (v : Byte) (s : State) :
    (State.setMem a v s).frameIn = s.frameIn := rfl

@[simp] theorem State.setMem_mem (a : Addr) (v : Byte) (s : State) :
    (State.setMem a v s).mem = Memory.writeAt s.mem a.toNat v := rfl

@[simp] theorem State.emit_cfg (e : Event) (s : State) :
    (State.emit e s).cfg = s.cfg := rfl

@[simp] theorem State.emit_opA (e : Event) (s : State) :
    (State.emit e s).opA = s.opA := rfl

@[simp] theorem State.emit_opD (e : Event) (s : State) :
    (State.emit e s).opD = s.opD := rfl

@[simp] theorem State.emit_opN (e : Event) (s : State) :
    (State.emit e s).opN = s.opN := rfl

@[simp] theorem State.emit_opS (e : Event) (s : State) :
    (State.emit e s).opS = s.opS := rfl

@[simp] theorem State.emit_opT (e : Event) (s : State) :
    (State.emit e s).opT = s.opT := rfl

@[simp] theorem State.emit_q (e : Event) (s : State) :
    (State.emit e s).q = s.q := rfl

@[simp] theorem State.emit_qbuf (e : Event) (s : State) :
    (State.emit e s).qbuf = s.qbuf := rfl

@[simp] theorem State.emit_qt (e : Event) (s : State) :
    (State.emit e s).qt = s.qt := rfl

@[simp] theorem State.emit_cpos (e : Event) (s : State) :
    (State.emit e s).cpos = s.cpos := rfl

@[simp] theorem State.emit_runstate (e : Event) (s : State) :
    (State.emit e s).runstate = s.runstate := rfl

@[simp] theorem State.emit_arch (e : Event) (s : State) :
    (State.emit e s).arch = s.arch := rfl

@[simp] theorem State.emit_speed (e : Event) (s : State) :
    (State.emit e s).speed = s.speed := rfl

@[simp] theorem State.emit_tickArmed (e : Event) (s : State) :
    (State.emit e s).tickArmed = s.tickArmed := rfl

@[simp] theorem State.emit_doorbellLatch (e : Event) (s : State) :
    (State.emit e s).doorbellLatch = s.doorbellLatch := rfl

@[simp] theorem State.emit_dbPending (e : Event) (s : State) :
    (State.emit e s).dbPending = s.dbPending := rfl

@[simp] theorem State.emit_ie (e : Event) (s : State) :
    (State.emit e s).ie = s.ie := rfl

@[simp] theorem State.emit_doorbellIe (e : Event) (s : State) :
    (State.emit e s).doorbellIe = s.doorbellIe := rfl

@[simp] theorem State.emit_initialised (e : Event) (s : State) :
    (State.emit e s).initialised = s.initialised := rfl

@[simp] theorem State.emit_fault (e : Event) (s : State) :
    (State.emit e s).fault = s.fault := rfl

@[simp] theorem State.emit_linkBusy (e : Event) (s : State) :
    (State.emit e s).linkBusy = s.linkBusy := rfl

@[simp] theorem State.emit_arbPhase (e : Event) (s : State) :
    (State.emit e s).arbPhase = s.arbPhase := rfl

@[simp] theorem State.emit_arbWasRunning (e : Event) (s : State) :
    (State.emit e s).arbWasRunning = s.arbWasRunning := rfl

@[simp] theorem State.emit_archsel (e : Event) (s : State) :
    (State.emit e s).archsel = s.archsel := rfl

@[simp] theorem State.emit_speedsel (e : Event) (s : State) :
    (State.emit e s).speedsel = s.speedsel := rfl

@[simp] theorem State.emit_resetLine (e : Event) (s : State) :
    (State.emit e s).resetLine = s.resetLine := rfl

@[simp] theorem State.emit_busen (e : Event) (s : State) :
    (State.emit e s).busen = s.busen := rfl

@[simp] theorem State.emit_int (e : Event) (s : State) :
    (State.emit e s).int = s.int := rfl

@[simp] theorem State.emit_ack (e : Event) (s : State) :
    (State.emit e s).ack = s.ack := rfl

@[simp] theorem State.emit_aoe (e : Event) (s : State) :
    (State.emit e s).aoe = s.aoe := rfl

@[simp] theorem State.emit_rwn (e : Event) (s : State) :
    (State.emit e s).rwn = s.rwn := rfl

@[simp] theorem State.emit_latch (e : Event) (s : State) :
    (State.emit e s).latch = s.latch := rfl

@[simp] theorem State.emit_sclk (e : Event) (s : State) :
    (State.emit e s).sclk = s.sclk := rfl

@[simp] theorem State.emit_sdo (e : Event) (s : State) :
    (State.emit e s).sdo = s.sdo := rfl

@[simp] theorem State.emit_sdi (e : Event) (s : State) :
    (State.emit e s).sdi = s.sdi := rfl

@[simp] theorem State.emit_req (e : Event) (s : State) :
    (State.emit e s).req = s.req := rfl

@[simp] theorem State.emit_dbell (e : Event) (s : State) :
    (State.emit e s).dbell = s.dbell := rfl

@[simp] theorem State.emit_srAddr (e : Event) (s : State) :
    (State.emit e s).srAddr = s.srAddr := rfl

@[simp] theorem State.emit_srData (e : Event) (s : State) :
    (State.emit e s).srData = s.srData := rfl

@[simp] theorem State.emit_mem (e : Event) (s : State) :
    (State.emit e s).mem = s.mem := rfl

@[simp] theorem State.emit_setting0 (e : Event) (s : State) :
    (State.emit e s).setting0 = s.setting0 := rfl

@[simp] theorem State.emit_setting1 (e : Event) (s : State) :
    (State.emit e s).setting1 = s.setting1 := rfl

@[simp] theorem State.emit_stream (e : Event) (s : State) :
    (State.emit e s).stream = s.stream := rfl

@[simp] theorem State.emit_refused (e : Event) (s : State) :
    (State.emit e s).refused = s.refused := rfl

@[simp] theorem State.emit_schedule (e : Event) (s : State) :
    (State.emit e s).schedule = s.schedule := rfl

@[simp] theorem State.emit_hostShare (e : Event) (s : State) :
    (State.emit e s).hostShare = s.hostShare := rfl

@[simp] theorem State.emit_endless (e : Event) (s : State) :
    (State.emit e s).endless = s.endless := rfl

@[simp] theorem State.emit_moveDraws (e : Event) (s : State) :
    (State.emit e s).moveDraws = s.moveDraws := rfl

@[simp] theorem State.emit_byteDraws (e : Event) (s : State) :
    (State.emit e s).byteDraws = s.byteDraws := rfl

@[simp] theorem State.emit_edgeDraws (e : Event) (s : State) :
    (State.emit e s).edgeDraws = s.edgeDraws := rfl

@[simp] theorem State.emit_frameOut (e : Event) (s : State) :
    (State.emit e s).frameOut = s.frameOut := rfl

@[simp] theorem State.emit_frameIn (e : Event) (s : State) :
    (State.emit e s).frameIn = s.frameIn := rfl

@[simp] theorem State.emit_hist (e : Event) (s : State) : (State.emit e s).hist = s.hist ++ [e] := rfl

@[simp] theorem State.drive_cfg (l : Line) (v : Bool) (s : State) :
    (State.drive l v s).cfg = s.cfg := by cases l <;> rfl

@[simp] theorem State.drive_opA (l : Line) (v : Bool) (s : State) :
    (State.drive l v s).opA = s.opA := by cases l <;> rfl

@[simp] theorem State.drive_opD (l : Line) (v : Bool) (s : State) :
    (State.drive l v s).opD = s.opD := by cases l <;> rfl

@[simp] theorem State.drive_opN (l : Line) (v : Bool) (s : State) :
    (State.drive l v s).opN = s.opN := by cases l <;> rfl

@[simp] theorem State.drive_opS (l : Line) (v : Bool) (s : State) :
    (State.drive l v s).opS = s.opS := by cases l <;> rfl

@[simp] theorem State.drive_opT (l : Line) (v : Bool) (s : State) :
    (State.drive l v s).opT = s.opT := by cases l <;> rfl

@[simp] theorem State.drive_q (l : Line) (v : Bool) (s : State) :
    (State.drive l v s).q = s.q := by cases l <;> rfl

@[simp] theorem State.drive_qbuf (l : Line) (v : Bool) (s : State) :
    (State.drive l v s).qbuf = s.qbuf := by cases l <;> rfl

@[simp] theorem State.drive_qt (l : Line) (v : Bool) (s : State) :
    (State.drive l v s).qt = s.qt := by cases l <;> rfl

@[simp] theorem State.drive_cpos (l : Line) (v : Bool) (s : State) :
    (State.drive l v s).cpos = s.cpos := by cases l <;> rfl

@[simp] theorem State.drive_runstate (l : Line) (v : Bool) (s : State) :
    (State.drive l v s).runstate = s.runstate := by cases l <;> rfl

@[simp] theorem State.drive_arch (l : Line) (v : Bool) (s : State) :
    (State.drive l v s).arch = s.arch := by cases l <;> rfl

@[simp] theorem State.drive_speed (l : Line) (v : Bool) (s : State) :
    (State.drive l v s).speed = s.speed := by cases l <;> rfl

@[simp] theorem State.drive_tickArmed (l : Line) (v : Bool) (s : State) :
    (State.drive l v s).tickArmed = s.tickArmed := by cases l <;> rfl

@[simp] theorem State.drive_doorbellLatch (l : Line) (v : Bool) (s : State) :
    (State.drive l v s).doorbellLatch = s.doorbellLatch := by cases l <;> rfl

@[simp] theorem State.drive_dbPending (l : Line) (v : Bool) (s : State) :
    (State.drive l v s).dbPending = s.dbPending := by cases l <;> rfl

@[simp] theorem State.drive_ie (l : Line) (v : Bool) (s : State) :
    (State.drive l v s).ie = s.ie := by cases l <;> rfl

@[simp] theorem State.drive_doorbellIe (l : Line) (v : Bool) (s : State) :
    (State.drive l v s).doorbellIe = s.doorbellIe := by cases l <;> rfl

@[simp] theorem State.drive_initialised (l : Line) (v : Bool) (s : State) :
    (State.drive l v s).initialised = s.initialised := by cases l <;> rfl

@[simp] theorem State.drive_fault (l : Line) (v : Bool) (s : State) :
    (State.drive l v s).fault = s.fault := by cases l <;> rfl

@[simp] theorem State.drive_linkBusy (l : Line) (v : Bool) (s : State) :
    (State.drive l v s).linkBusy = s.linkBusy := by cases l <;> rfl

@[simp] theorem State.drive_arbPhase (l : Line) (v : Bool) (s : State) :
    (State.drive l v s).arbPhase = s.arbPhase := by cases l <;> rfl

@[simp] theorem State.drive_arbWasRunning (l : Line) (v : Bool) (s : State) :
    (State.drive l v s).arbWasRunning = s.arbWasRunning := by cases l <;> rfl

@[simp] theorem State.drive_aoe (l : Line) (v : Bool) (s : State) :
    (State.drive l v s).aoe = s.aoe := by cases l <;> rfl

@[simp] theorem State.drive_rwn (l : Line) (v : Bool) (s : State) :
    (State.drive l v s).rwn = s.rwn := by cases l <;> rfl

@[simp] theorem State.drive_latch (l : Line) (v : Bool) (s : State) :
    (State.drive l v s).latch = s.latch := by cases l <;> rfl

@[simp] theorem State.drive_sclk (l : Line) (v : Bool) (s : State) :
    (State.drive l v s).sclk = s.sclk := by cases l <;> rfl

@[simp] theorem State.drive_sdo (l : Line) (v : Bool) (s : State) :
    (State.drive l v s).sdo = s.sdo := by cases l <;> rfl

@[simp] theorem State.drive_sdi (l : Line) (v : Bool) (s : State) :
    (State.drive l v s).sdi = s.sdi := by cases l <;> rfl

@[simp] theorem State.drive_req (l : Line) (v : Bool) (s : State) :
    (State.drive l v s).req = s.req := by cases l <;> rfl

@[simp] theorem State.drive_dbell (l : Line) (v : Bool) (s : State) :
    (State.drive l v s).dbell = s.dbell := by cases l <;> rfl

@[simp] theorem State.drive_srAddr (l : Line) (v : Bool) (s : State) :
    (State.drive l v s).srAddr = s.srAddr := by cases l <;> rfl

@[simp] theorem State.drive_srData (l : Line) (v : Bool) (s : State) :
    (State.drive l v s).srData = s.srData := by cases l <;> rfl

@[simp] theorem State.drive_mem (l : Line) (v : Bool) (s : State) :
    (State.drive l v s).mem = s.mem := by cases l <;> rfl

@[simp] theorem State.drive_setting0 (l : Line) (v : Bool) (s : State) :
    (State.drive l v s).setting0 = s.setting0 := by cases l <;> rfl

@[simp] theorem State.drive_setting1 (l : Line) (v : Bool) (s : State) :
    (State.drive l v s).setting1 = s.setting1 := by cases l <;> rfl

@[simp] theorem State.drive_stream (l : Line) (v : Bool) (s : State) :
    (State.drive l v s).stream = s.stream := by cases l <;> rfl

@[simp] theorem State.drive_refused (l : Line) (v : Bool) (s : State) :
    (State.drive l v s).refused = s.refused := by cases l <;> rfl

@[simp] theorem State.drive_schedule (l : Line) (v : Bool) (s : State) :
    (State.drive l v s).schedule = s.schedule := by cases l <;> rfl

@[simp] theorem State.drive_hostShare (l : Line) (v : Bool) (s : State) :
    (State.drive l v s).hostShare = s.hostShare := by cases l <;> rfl

@[simp] theorem State.drive_endless (l : Line) (v : Bool) (s : State) :
    (State.drive l v s).endless = s.endless := by cases l <;> rfl

@[simp] theorem State.drive_moveDraws (l : Line) (v : Bool) (s : State) :
    (State.drive l v s).moveDraws = s.moveDraws := by cases l <;> rfl

@[simp] theorem State.drive_byteDraws (l : Line) (v : Bool) (s : State) :
    (State.drive l v s).byteDraws = s.byteDraws := by cases l <;> rfl

@[simp] theorem State.drive_edgeDraws (l : Line) (v : Bool) (s : State) :
    (State.drive l v s).edgeDraws = s.edgeDraws := by cases l <;> rfl

@[simp] theorem State.drive_frameOut (l : Line) (v : Bool) (s : State) :
    (State.drive l v s).frameOut = s.frameOut := by cases l <;> rfl

@[simp] theorem State.drive_frameIn (l : Line) (v : Bool) (s : State) :
    (State.drive l v s).frameIn = s.frameIn := by cases l <;> rfl

@[simp] theorem State.drive_hist (l : Line) (v : Bool) (s : State) :
    (State.drive l v s).hist = s.hist ++ [.line l v] := by cases l <;> rfl

@[simp] theorem State.drive_archsel_archsel (v : Bool) (s : State) :
    (State.drive .archsel v s).archsel = v := rfl

@[simp] theorem State.drive_archsel_speedsel (v : Bool) (s : State) :
    (State.drive .archsel v s).speedsel = s.speedsel := rfl

@[simp] theorem State.drive_archsel_resetLine (v : Bool) (s : State) :
    (State.drive .archsel v s).resetLine = s.resetLine := rfl

@[simp] theorem State.drive_archsel_busen (v : Bool) (s : State) :
    (State.drive .archsel v s).busen = s.busen := rfl

@[simp] theorem State.drive_archsel_int (v : Bool) (s : State) :
    (State.drive .archsel v s).int = s.int := rfl

@[simp] theorem State.drive_archsel_ack (v : Bool) (s : State) :
    (State.drive .archsel v s).ack = s.ack := rfl

@[simp] theorem State.drive_speedsel_archsel (v : Bool) (s : State) :
    (State.drive .speedsel v s).archsel = s.archsel := rfl

@[simp] theorem State.drive_speedsel_speedsel (v : Bool) (s : State) :
    (State.drive .speedsel v s).speedsel = v := rfl

@[simp] theorem State.drive_speedsel_resetLine (v : Bool) (s : State) :
    (State.drive .speedsel v s).resetLine = s.resetLine := rfl

@[simp] theorem State.drive_speedsel_busen (v : Bool) (s : State) :
    (State.drive .speedsel v s).busen = s.busen := rfl

@[simp] theorem State.drive_speedsel_int (v : Bool) (s : State) :
    (State.drive .speedsel v s).int = s.int := rfl

@[simp] theorem State.drive_speedsel_ack (v : Bool) (s : State) :
    (State.drive .speedsel v s).ack = s.ack := rfl

@[simp] theorem State.drive_reset_archsel (v : Bool) (s : State) :
    (State.drive .reset v s).archsel = s.archsel := rfl

@[simp] theorem State.drive_reset_speedsel (v : Bool) (s : State) :
    (State.drive .reset v s).speedsel = s.speedsel := rfl

@[simp] theorem State.drive_reset_resetLine (v : Bool) (s : State) :
    (State.drive .reset v s).resetLine = v := rfl

@[simp] theorem State.drive_reset_busen (v : Bool) (s : State) :
    (State.drive .reset v s).busen = s.busen := rfl

@[simp] theorem State.drive_reset_int (v : Bool) (s : State) :
    (State.drive .reset v s).int = s.int := rfl

@[simp] theorem State.drive_reset_ack (v : Bool) (s : State) :
    (State.drive .reset v s).ack = s.ack := rfl

@[simp] theorem State.drive_busen_archsel (v : Bool) (s : State) :
    (State.drive .busen v s).archsel = s.archsel := rfl

@[simp] theorem State.drive_busen_speedsel (v : Bool) (s : State) :
    (State.drive .busen v s).speedsel = s.speedsel := rfl

@[simp] theorem State.drive_busen_resetLine (v : Bool) (s : State) :
    (State.drive .busen v s).resetLine = s.resetLine := rfl

@[simp] theorem State.drive_busen_busen (v : Bool) (s : State) :
    (State.drive .busen v s).busen = v := rfl

@[simp] theorem State.drive_busen_int (v : Bool) (s : State) :
    (State.drive .busen v s).int = s.int := rfl

@[simp] theorem State.drive_busen_ack (v : Bool) (s : State) :
    (State.drive .busen v s).ack = s.ack := rfl

@[simp] theorem State.drive_int_archsel (v : Bool) (s : State) :
    (State.drive .int v s).archsel = s.archsel := rfl

@[simp] theorem State.drive_int_speedsel (v : Bool) (s : State) :
    (State.drive .int v s).speedsel = s.speedsel := rfl

@[simp] theorem State.drive_int_resetLine (v : Bool) (s : State) :
    (State.drive .int v s).resetLine = s.resetLine := rfl

@[simp] theorem State.drive_int_busen (v : Bool) (s : State) :
    (State.drive .int v s).busen = s.busen := rfl

@[simp] theorem State.drive_int_int (v : Bool) (s : State) :
    (State.drive .int v s).int = v := rfl

@[simp] theorem State.drive_int_ack (v : Bool) (s : State) :
    (State.drive .int v s).ack = s.ack := rfl

@[simp] theorem State.drive_ack_archsel (v : Bool) (s : State) :
    (State.drive .ack v s).archsel = s.archsel := rfl

@[simp] theorem State.drive_ack_speedsel (v : Bool) (s : State) :
    (State.drive .ack v s).speedsel = s.speedsel := rfl

@[simp] theorem State.drive_ack_resetLine (v : Bool) (s : State) :
    (State.drive .ack v s).resetLine = s.resetLine := rfl

@[simp] theorem State.drive_ack_busen (v : Bool) (s : State) :
    (State.drive .ack v s).busen = s.busen := rfl

@[simp] theorem State.drive_ack_int (v : Bool) (s : State) :
    (State.drive .ack v s).int = s.int := rfl

@[simp] theorem State.drive_ack_ack (v : Bool) (s : State) :
    (State.drive .ack v s).ack = v := rfl

@[simp] theorem State.setWire_cfg (w : Wire) (v : Bool) (s : State) :
    (State.setWire w v s).cfg = s.cfg := by cases w <;> rfl

@[simp] theorem State.setWire_opA (w : Wire) (v : Bool) (s : State) :
    (State.setWire w v s).opA = s.opA := by cases w <;> rfl

@[simp] theorem State.setWire_opD (w : Wire) (v : Bool) (s : State) :
    (State.setWire w v s).opD = s.opD := by cases w <;> rfl

@[simp] theorem State.setWire_opN (w : Wire) (v : Bool) (s : State) :
    (State.setWire w v s).opN = s.opN := by cases w <;> rfl

@[simp] theorem State.setWire_opS (w : Wire) (v : Bool) (s : State) :
    (State.setWire w v s).opS = s.opS := by cases w <;> rfl

@[simp] theorem State.setWire_opT (w : Wire) (v : Bool) (s : State) :
    (State.setWire w v s).opT = s.opT := by cases w <;> rfl

@[simp] theorem State.setWire_q (w : Wire) (v : Bool) (s : State) :
    (State.setWire w v s).q = s.q := by cases w <;> rfl

@[simp] theorem State.setWire_qbuf (w : Wire) (v : Bool) (s : State) :
    (State.setWire w v s).qbuf = s.qbuf := by cases w <;> rfl

@[simp] theorem State.setWire_qt (w : Wire) (v : Bool) (s : State) :
    (State.setWire w v s).qt = s.qt := by cases w <;> rfl

@[simp] theorem State.setWire_cpos (w : Wire) (v : Bool) (s : State) :
    (State.setWire w v s).cpos = s.cpos := by cases w <;> rfl

@[simp] theorem State.setWire_runstate (w : Wire) (v : Bool) (s : State) :
    (State.setWire w v s).runstate = s.runstate := by cases w <;> rfl

@[simp] theorem State.setWire_arch (w : Wire) (v : Bool) (s : State) :
    (State.setWire w v s).arch = s.arch := by cases w <;> rfl

@[simp] theorem State.setWire_speed (w : Wire) (v : Bool) (s : State) :
    (State.setWire w v s).speed = s.speed := by cases w <;> rfl

@[simp] theorem State.setWire_tickArmed (w : Wire) (v : Bool) (s : State) :
    (State.setWire w v s).tickArmed = s.tickArmed := by cases w <;> rfl

@[simp] theorem State.setWire_doorbellLatch (w : Wire) (v : Bool) (s : State) :
    (State.setWire w v s).doorbellLatch = s.doorbellLatch := by cases w <;> rfl

@[simp] theorem State.setWire_dbPending (w : Wire) (v : Bool) (s : State) :
    (State.setWire w v s).dbPending = s.dbPending := by cases w <;> rfl

@[simp] theorem State.setWire_ie (w : Wire) (v : Bool) (s : State) :
    (State.setWire w v s).ie = s.ie := by cases w <;> rfl

@[simp] theorem State.setWire_doorbellIe (w : Wire) (v : Bool) (s : State) :
    (State.setWire w v s).doorbellIe = s.doorbellIe := by cases w <;> rfl

@[simp] theorem State.setWire_initialised (w : Wire) (v : Bool) (s : State) :
    (State.setWire w v s).initialised = s.initialised := by cases w <;> rfl

@[simp] theorem State.setWire_fault (w : Wire) (v : Bool) (s : State) :
    (State.setWire w v s).fault = s.fault := by cases w <;> rfl

@[simp] theorem State.setWire_linkBusy (w : Wire) (v : Bool) (s : State) :
    (State.setWire w v s).linkBusy = s.linkBusy := by cases w <;> rfl

@[simp] theorem State.setWire_arbPhase (w : Wire) (v : Bool) (s : State) :
    (State.setWire w v s).arbPhase = s.arbPhase := by cases w <;> rfl

@[simp] theorem State.setWire_arbWasRunning (w : Wire) (v : Bool) (s : State) :
    (State.setWire w v s).arbWasRunning = s.arbWasRunning := by cases w <;> rfl

@[simp] theorem State.setWire_archsel (w : Wire) (v : Bool) (s : State) :
    (State.setWire w v s).archsel = s.archsel := by cases w <;> rfl

@[simp] theorem State.setWire_speedsel (w : Wire) (v : Bool) (s : State) :
    (State.setWire w v s).speedsel = s.speedsel := by cases w <;> rfl

@[simp] theorem State.setWire_resetLine (w : Wire) (v : Bool) (s : State) :
    (State.setWire w v s).resetLine = s.resetLine := by cases w <;> rfl

@[simp] theorem State.setWire_busen (w : Wire) (v : Bool) (s : State) :
    (State.setWire w v s).busen = s.busen := by cases w <;> rfl

@[simp] theorem State.setWire_int (w : Wire) (v : Bool) (s : State) :
    (State.setWire w v s).int = s.int := by cases w <;> rfl

@[simp] theorem State.setWire_ack (w : Wire) (v : Bool) (s : State) :
    (State.setWire w v s).ack = s.ack := by cases w <;> rfl

@[simp] theorem State.setWire_sdi (w : Wire) (v : Bool) (s : State) :
    (State.setWire w v s).sdi = s.sdi := by cases w <;> rfl

@[simp] theorem State.setWire_req (w : Wire) (v : Bool) (s : State) :
    (State.setWire w v s).req = s.req := by cases w <;> rfl

@[simp] theorem State.setWire_dbell (w : Wire) (v : Bool) (s : State) :
    (State.setWire w v s).dbell = s.dbell := by cases w <;> rfl

@[simp] theorem State.setWire_srAddr (w : Wire) (v : Bool) (s : State) :
    (State.setWire w v s).srAddr = s.srAddr := by cases w <;> rfl

@[simp] theorem State.setWire_srData (w : Wire) (v : Bool) (s : State) :
    (State.setWire w v s).srData = s.srData := by cases w <;> rfl

@[simp] theorem State.setWire_mem (w : Wire) (v : Bool) (s : State) :
    (State.setWire w v s).mem = s.mem := by cases w <;> rfl

@[simp] theorem State.setWire_setting0 (w : Wire) (v : Bool) (s : State) :
    (State.setWire w v s).setting0 = s.setting0 := by cases w <;> rfl

@[simp] theorem State.setWire_setting1 (w : Wire) (v : Bool) (s : State) :
    (State.setWire w v s).setting1 = s.setting1 := by cases w <;> rfl

@[simp] theorem State.setWire_hist (w : Wire) (v : Bool) (s : State) :
    (State.setWire w v s).hist = s.hist := by cases w <;> rfl

@[simp] theorem State.setWire_stream (w : Wire) (v : Bool) (s : State) :
    (State.setWire w v s).stream = s.stream := by cases w <;> rfl

@[simp] theorem State.setWire_refused (w : Wire) (v : Bool) (s : State) :
    (State.setWire w v s).refused = s.refused := by cases w <;> rfl

@[simp] theorem State.setWire_schedule (w : Wire) (v : Bool) (s : State) :
    (State.setWire w v s).schedule = s.schedule := by cases w <;> rfl

@[simp] theorem State.setWire_hostShare (w : Wire) (v : Bool) (s : State) :
    (State.setWire w v s).hostShare = s.hostShare := by cases w <;> rfl

@[simp] theorem State.setWire_endless (w : Wire) (v : Bool) (s : State) :
    (State.setWire w v s).endless = s.endless := by cases w <;> rfl

@[simp] theorem State.setWire_moveDraws (w : Wire) (v : Bool) (s : State) :
    (State.setWire w v s).moveDraws = s.moveDraws := by cases w <;> rfl

@[simp] theorem State.setWire_byteDraws (w : Wire) (v : Bool) (s : State) :
    (State.setWire w v s).byteDraws = s.byteDraws := by cases w <;> rfl

@[simp] theorem State.setWire_edgeDraws (w : Wire) (v : Bool) (s : State) :
    (State.setWire w v s).edgeDraws = s.edgeDraws := by cases w <;> rfl

@[simp] theorem State.setWire_frameOut (w : Wire) (v : Bool) (s : State) :
    (State.setWire w v s).frameOut = s.frameOut := by cases w <;> rfl

@[simp] theorem State.setWire_frameIn (w : Wire) (v : Bool) (s : State) :
    (State.setWire w v s).frameIn = s.frameIn := by cases w <;> rfl

@[simp] theorem State.setWire_sdo_sdo (v : Bool) (s : State) :
    (State.setWire .sdo v s).sdo = v := rfl

@[simp] theorem State.setWire_sdo_sclk (v : Bool) (s : State) :
    (State.setWire .sdo v s).sclk = s.sclk := rfl

@[simp] theorem State.setWire_sdo_aoe (v : Bool) (s : State) :
    (State.setWire .sdo v s).aoe = s.aoe := rfl

@[simp] theorem State.setWire_sdo_rwn (v : Bool) (s : State) :
    (State.setWire .sdo v s).rwn = s.rwn := rfl

@[simp] theorem State.setWire_sdo_latch (v : Bool) (s : State) :
    (State.setWire .sdo v s).latch = s.latch := rfl

@[simp] theorem State.setWire_sclk_sdo (v : Bool) (s : State) :
    (State.setWire .sclk v s).sdo = s.sdo := rfl

@[simp] theorem State.setWire_sclk_sclk (v : Bool) (s : State) :
    (State.setWire .sclk v s).sclk = v := rfl

@[simp] theorem State.setWire_sclk_aoe (v : Bool) (s : State) :
    (State.setWire .sclk v s).aoe = s.aoe := rfl

@[simp] theorem State.setWire_sclk_rwn (v : Bool) (s : State) :
    (State.setWire .sclk v s).rwn = s.rwn := rfl

@[simp] theorem State.setWire_sclk_latch (v : Bool) (s : State) :
    (State.setWire .sclk v s).latch = s.latch := rfl

@[simp] theorem State.setWire_aoe_sdo (v : Bool) (s : State) :
    (State.setWire .aoe v s).sdo = s.sdo := rfl

@[simp] theorem State.setWire_aoe_sclk (v : Bool) (s : State) :
    (State.setWire .aoe v s).sclk = s.sclk := rfl

@[simp] theorem State.setWire_aoe_aoe (v : Bool) (s : State) :
    (State.setWire .aoe v s).aoe = v := rfl

@[simp] theorem State.setWire_aoe_rwn (v : Bool) (s : State) :
    (State.setWire .aoe v s).rwn = s.rwn := rfl

@[simp] theorem State.setWire_aoe_latch (v : Bool) (s : State) :
    (State.setWire .aoe v s).latch = s.latch := rfl

@[simp] theorem State.setWire_rwn_sdo (v : Bool) (s : State) :
    (State.setWire .rwn v s).sdo = s.sdo := rfl

@[simp] theorem State.setWire_rwn_sclk (v : Bool) (s : State) :
    (State.setWire .rwn v s).sclk = s.sclk := rfl

@[simp] theorem State.setWire_rwn_aoe (v : Bool) (s : State) :
    (State.setWire .rwn v s).aoe = s.aoe := rfl

@[simp] theorem State.setWire_rwn_rwn (v : Bool) (s : State) :
    (State.setWire .rwn v s).rwn = v := rfl

@[simp] theorem State.setWire_rwn_latch (v : Bool) (s : State) :
    (State.setWire .rwn v s).latch = s.latch := rfl

@[simp] theorem State.setWire_latch_sdo (v : Bool) (s : State) :
    (State.setWire .latch v s).sdo = s.sdo := rfl

@[simp] theorem State.setWire_latch_sclk (v : Bool) (s : State) :
    (State.setWire .latch v s).sclk = s.sclk := rfl

@[simp] theorem State.setWire_latch_aoe (v : Bool) (s : State) :
    (State.setWire .latch v s).aoe = s.aoe := rfl

@[simp] theorem State.setWire_latch_rwn (v : Bool) (s : State) :
    (State.setWire .latch v s).rwn = s.rwn := rfl

@[simp] theorem State.setWire_latch_latch (v : Bool) (s : State) :
    (State.setWire .latch v s).latch = v := rfl

@[simp] theorem State.setSetting_cfg (i : Setting) (v : Byte) (s : State) :
    (State.setSetting i v s).cfg = s.cfg := by cases i <;> rfl

@[simp] theorem State.setSetting_opA (i : Setting) (v : Byte) (s : State) :
    (State.setSetting i v s).opA = s.opA := by cases i <;> rfl

@[simp] theorem State.setSetting_opD (i : Setting) (v : Byte) (s : State) :
    (State.setSetting i v s).opD = s.opD := by cases i <;> rfl

@[simp] theorem State.setSetting_opN (i : Setting) (v : Byte) (s : State) :
    (State.setSetting i v s).opN = s.opN := by cases i <;> rfl

@[simp] theorem State.setSetting_opS (i : Setting) (v : Byte) (s : State) :
    (State.setSetting i v s).opS = s.opS := by cases i <;> rfl

@[simp] theorem State.setSetting_opT (i : Setting) (v : Byte) (s : State) :
    (State.setSetting i v s).opT = s.opT := by cases i <;> rfl

@[simp] theorem State.setSetting_q (i : Setting) (v : Byte) (s : State) :
    (State.setSetting i v s).q = s.q := by cases i <;> rfl

@[simp] theorem State.setSetting_qbuf (i : Setting) (v : Byte) (s : State) :
    (State.setSetting i v s).qbuf = s.qbuf := by cases i <;> rfl

@[simp] theorem State.setSetting_qt (i : Setting) (v : Byte) (s : State) :
    (State.setSetting i v s).qt = s.qt := by cases i <;> rfl

@[simp] theorem State.setSetting_cpos (i : Setting) (v : Byte) (s : State) :
    (State.setSetting i v s).cpos = s.cpos := by cases i <;> rfl

@[simp] theorem State.setSetting_runstate (i : Setting) (v : Byte) (s : State) :
    (State.setSetting i v s).runstate = s.runstate := by cases i <;> rfl

@[simp] theorem State.setSetting_arch (i : Setting) (v : Byte) (s : State) :
    (State.setSetting i v s).arch = s.arch := by cases i <;> rfl

@[simp] theorem State.setSetting_speed (i : Setting) (v : Byte) (s : State) :
    (State.setSetting i v s).speed = s.speed := by cases i <;> rfl

@[simp] theorem State.setSetting_tickArmed (i : Setting) (v : Byte) (s : State) :
    (State.setSetting i v s).tickArmed = s.tickArmed := by cases i <;> rfl

@[simp] theorem State.setSetting_doorbellLatch (i : Setting) (v : Byte) (s : State) :
    (State.setSetting i v s).doorbellLatch = s.doorbellLatch := by cases i <;> rfl

@[simp] theorem State.setSetting_dbPending (i : Setting) (v : Byte) (s : State) :
    (State.setSetting i v s).dbPending = s.dbPending := by cases i <;> rfl

@[simp] theorem State.setSetting_ie (i : Setting) (v : Byte) (s : State) :
    (State.setSetting i v s).ie = s.ie := by cases i <;> rfl

@[simp] theorem State.setSetting_doorbellIe (i : Setting) (v : Byte) (s : State) :
    (State.setSetting i v s).doorbellIe = s.doorbellIe := by cases i <;> rfl

@[simp] theorem State.setSetting_initialised (i : Setting) (v : Byte) (s : State) :
    (State.setSetting i v s).initialised = s.initialised := by cases i <;> rfl

@[simp] theorem State.setSetting_fault (i : Setting) (v : Byte) (s : State) :
    (State.setSetting i v s).fault = s.fault := by cases i <;> rfl

@[simp] theorem State.setSetting_linkBusy (i : Setting) (v : Byte) (s : State) :
    (State.setSetting i v s).linkBusy = s.linkBusy := by cases i <;> rfl

@[simp] theorem State.setSetting_arbPhase (i : Setting) (v : Byte) (s : State) :
    (State.setSetting i v s).arbPhase = s.arbPhase := by cases i <;> rfl

@[simp] theorem State.setSetting_arbWasRunning (i : Setting) (v : Byte) (s : State) :
    (State.setSetting i v s).arbWasRunning = s.arbWasRunning := by cases i <;> rfl

@[simp] theorem State.setSetting_archsel (i : Setting) (v : Byte) (s : State) :
    (State.setSetting i v s).archsel = s.archsel := by cases i <;> rfl

@[simp] theorem State.setSetting_speedsel (i : Setting) (v : Byte) (s : State) :
    (State.setSetting i v s).speedsel = s.speedsel := by cases i <;> rfl

@[simp] theorem State.setSetting_resetLine (i : Setting) (v : Byte) (s : State) :
    (State.setSetting i v s).resetLine = s.resetLine := by cases i <;> rfl

@[simp] theorem State.setSetting_busen (i : Setting) (v : Byte) (s : State) :
    (State.setSetting i v s).busen = s.busen := by cases i <;> rfl

@[simp] theorem State.setSetting_int (i : Setting) (v : Byte) (s : State) :
    (State.setSetting i v s).int = s.int := by cases i <;> rfl

@[simp] theorem State.setSetting_ack (i : Setting) (v : Byte) (s : State) :
    (State.setSetting i v s).ack = s.ack := by cases i <;> rfl

@[simp] theorem State.setSetting_aoe (i : Setting) (v : Byte) (s : State) :
    (State.setSetting i v s).aoe = s.aoe := by cases i <;> rfl

@[simp] theorem State.setSetting_rwn (i : Setting) (v : Byte) (s : State) :
    (State.setSetting i v s).rwn = s.rwn := by cases i <;> rfl

@[simp] theorem State.setSetting_latch (i : Setting) (v : Byte) (s : State) :
    (State.setSetting i v s).latch = s.latch := by cases i <;> rfl

@[simp] theorem State.setSetting_sclk (i : Setting) (v : Byte) (s : State) :
    (State.setSetting i v s).sclk = s.sclk := by cases i <;> rfl

@[simp] theorem State.setSetting_sdo (i : Setting) (v : Byte) (s : State) :
    (State.setSetting i v s).sdo = s.sdo := by cases i <;> rfl

@[simp] theorem State.setSetting_sdi (i : Setting) (v : Byte) (s : State) :
    (State.setSetting i v s).sdi = s.sdi := by cases i <;> rfl

@[simp] theorem State.setSetting_req (i : Setting) (v : Byte) (s : State) :
    (State.setSetting i v s).req = s.req := by cases i <;> rfl

@[simp] theorem State.setSetting_dbell (i : Setting) (v : Byte) (s : State) :
    (State.setSetting i v s).dbell = s.dbell := by cases i <;> rfl

@[simp] theorem State.setSetting_srAddr (i : Setting) (v : Byte) (s : State) :
    (State.setSetting i v s).srAddr = s.srAddr := by cases i <;> rfl

@[simp] theorem State.setSetting_srData (i : Setting) (v : Byte) (s : State) :
    (State.setSetting i v s).srData = s.srData := by cases i <;> rfl

@[simp] theorem State.setSetting_mem (i : Setting) (v : Byte) (s : State) :
    (State.setSetting i v s).mem = s.mem := by cases i <;> rfl

@[simp] theorem State.setSetting_hist (i : Setting) (v : Byte) (s : State) :
    (State.setSetting i v s).hist = s.hist := by cases i <;> rfl

@[simp] theorem State.setSetting_stream (i : Setting) (v : Byte) (s : State) :
    (State.setSetting i v s).stream = s.stream := by cases i <;> rfl

@[simp] theorem State.setSetting_refused (i : Setting) (v : Byte) (s : State) :
    (State.setSetting i v s).refused = s.refused := by cases i <;> rfl

@[simp] theorem State.setSetting_schedule (i : Setting) (v : Byte) (s : State) :
    (State.setSetting i v s).schedule = s.schedule := by cases i <;> rfl

@[simp] theorem State.setSetting_hostShare (i : Setting) (v : Byte) (s : State) :
    (State.setSetting i v s).hostShare = s.hostShare := by cases i <;> rfl

@[simp] theorem State.setSetting_endless (i : Setting) (v : Byte) (s : State) :
    (State.setSetting i v s).endless = s.endless := by cases i <;> rfl

@[simp] theorem State.setSetting_moveDraws (i : Setting) (v : Byte) (s : State) :
    (State.setSetting i v s).moveDraws = s.moveDraws := by cases i <;> rfl

@[simp] theorem State.setSetting_byteDraws (i : Setting) (v : Byte) (s : State) :
    (State.setSetting i v s).byteDraws = s.byteDraws := by cases i <;> rfl

@[simp] theorem State.setSetting_edgeDraws (i : Setting) (v : Byte) (s : State) :
    (State.setSetting i v s).edgeDraws = s.edgeDraws := by cases i <;> rfl

@[simp] theorem State.setSetting_frameOut (i : Setting) (v : Byte) (s : State) :
    (State.setSetting i v s).frameOut = s.frameOut := by cases i <;> rfl

@[simp] theorem State.setSetting_frameIn (i : Setting) (v : Byte) (s : State) :
    (State.setSetting i v s).frameIn = s.frameIn := by cases i <;> rfl

@[simp] theorem State.setSetting_architecture_setting0 (v : Byte) (s : State) :
    (State.setSetting .architecture v s).setting0 = v := rfl

@[simp] theorem State.setSetting_architecture_setting1 (v : Byte) (s : State) :
    (State.setSetting .architecture v s).setting1 = s.setting1 := rfl

@[simp] theorem State.setSetting_speed_setting0 (v : Byte) (s : State) :
    (State.setSetting .speed v s).setting0 = s.setting0 := rfl

@[simp] theorem State.setSetting_speed_setting1 (v : Byte) (s : State) :
    (State.setSetting .speed v s).setting1 = v := rfl

@[simp] theorem State.delay_cfg (t : Duration) (s : State) :
    (State.delay t s).cfg = s.cfg := rfl

@[simp] theorem State.delay_opA (t : Duration) (s : State) :
    (State.delay t s).opA = s.opA := rfl

@[simp] theorem State.delay_opD (t : Duration) (s : State) :
    (State.delay t s).opD = s.opD := rfl

@[simp] theorem State.delay_opN (t : Duration) (s : State) :
    (State.delay t s).opN = s.opN := rfl

@[simp] theorem State.delay_opS (t : Duration) (s : State) :
    (State.delay t s).opS = s.opS := rfl

@[simp] theorem State.delay_opT (t : Duration) (s : State) :
    (State.delay t s).opT = s.opT := rfl

@[simp] theorem State.delay_q (t : Duration) (s : State) :
    (State.delay t s).q = s.q := rfl

@[simp] theorem State.delay_qbuf (t : Duration) (s : State) :
    (State.delay t s).qbuf = s.qbuf := rfl

@[simp] theorem State.delay_qt (t : Duration) (s : State) :
    (State.delay t s).qt = s.qt := rfl

@[simp] theorem State.delay_cpos (t : Duration) (s : State) :
    (State.delay t s).cpos = s.cpos := rfl

@[simp] theorem State.delay_runstate (t : Duration) (s : State) :
    (State.delay t s).runstate = s.runstate := rfl

@[simp] theorem State.delay_arch (t : Duration) (s : State) :
    (State.delay t s).arch = s.arch := rfl

@[simp] theorem State.delay_speed (t : Duration) (s : State) :
    (State.delay t s).speed = s.speed := rfl

@[simp] theorem State.delay_tickArmed (t : Duration) (s : State) :
    (State.delay t s).tickArmed = s.tickArmed := rfl

@[simp] theorem State.delay_doorbellLatch (t : Duration) (s : State) :
    (State.delay t s).doorbellLatch = s.doorbellLatch := rfl

@[simp] theorem State.delay_dbPending (t : Duration) (s : State) :
    (State.delay t s).dbPending = s.dbPending := rfl

@[simp] theorem State.delay_ie (t : Duration) (s : State) :
    (State.delay t s).ie = s.ie := rfl

@[simp] theorem State.delay_doorbellIe (t : Duration) (s : State) :
    (State.delay t s).doorbellIe = s.doorbellIe := rfl

@[simp] theorem State.delay_initialised (t : Duration) (s : State) :
    (State.delay t s).initialised = s.initialised := rfl

@[simp] theorem State.delay_fault (t : Duration) (s : State) :
    (State.delay t s).fault = s.fault := rfl

@[simp] theorem State.delay_linkBusy (t : Duration) (s : State) :
    (State.delay t s).linkBusy = s.linkBusy := rfl

@[simp] theorem State.delay_arbPhase (t : Duration) (s : State) :
    (State.delay t s).arbPhase = s.arbPhase := rfl

@[simp] theorem State.delay_arbWasRunning (t : Duration) (s : State) :
    (State.delay t s).arbWasRunning = s.arbWasRunning := rfl

@[simp] theorem State.delay_archsel (t : Duration) (s : State) :
    (State.delay t s).archsel = s.archsel := rfl

@[simp] theorem State.delay_speedsel (t : Duration) (s : State) :
    (State.delay t s).speedsel = s.speedsel := rfl

@[simp] theorem State.delay_resetLine (t : Duration) (s : State) :
    (State.delay t s).resetLine = s.resetLine := rfl

@[simp] theorem State.delay_busen (t : Duration) (s : State) :
    (State.delay t s).busen = s.busen := rfl

@[simp] theorem State.delay_int (t : Duration) (s : State) :
    (State.delay t s).int = s.int := rfl

@[simp] theorem State.delay_ack (t : Duration) (s : State) :
    (State.delay t s).ack = s.ack := rfl

@[simp] theorem State.delay_aoe (t : Duration) (s : State) :
    (State.delay t s).aoe = s.aoe := rfl

@[simp] theorem State.delay_rwn (t : Duration) (s : State) :
    (State.delay t s).rwn = s.rwn := rfl

@[simp] theorem State.delay_latch (t : Duration) (s : State) :
    (State.delay t s).latch = s.latch := rfl

@[simp] theorem State.delay_sclk (t : Duration) (s : State) :
    (State.delay t s).sclk = s.sclk := rfl

@[simp] theorem State.delay_sdo (t : Duration) (s : State) :
    (State.delay t s).sdo = s.sdo := rfl

@[simp] theorem State.delay_sdi (t : Duration) (s : State) :
    (State.delay t s).sdi = s.sdi := rfl

@[simp] theorem State.delay_req (t : Duration) (s : State) :
    (State.delay t s).req = s.req := rfl

@[simp] theorem State.delay_dbell (t : Duration) (s : State) :
    (State.delay t s).dbell = s.dbell := rfl

@[simp] theorem State.delay_srAddr (t : Duration) (s : State) :
    (State.delay t s).srAddr = s.srAddr := rfl

@[simp] theorem State.delay_srData (t : Duration) (s : State) :
    (State.delay t s).srData = s.srData := rfl

@[simp] theorem State.delay_mem (t : Duration) (s : State) :
    (State.delay t s).mem = s.mem := rfl

@[simp] theorem State.delay_setting0 (t : Duration) (s : State) :
    (State.delay t s).setting0 = s.setting0 := rfl

@[simp] theorem State.delay_setting1 (t : Duration) (s : State) :
    (State.delay t s).setting1 = s.setting1 := rfl

@[simp] theorem State.delay_stream (t : Duration) (s : State) :
    (State.delay t s).stream = s.stream := rfl

@[simp] theorem State.delay_refused (t : Duration) (s : State) :
    (State.delay t s).refused = s.refused := rfl

@[simp] theorem State.delay_schedule (t : Duration) (s : State) :
    (State.delay t s).schedule = s.schedule := rfl

@[simp] theorem State.delay_hostShare (t : Duration) (s : State) :
    (State.delay t s).hostShare = s.hostShare := rfl

@[simp] theorem State.delay_endless (t : Duration) (s : State) :
    (State.delay t s).endless = s.endless := rfl

@[simp] theorem State.delay_moveDraws (t : Duration) (s : State) :
    (State.delay t s).moveDraws = s.moveDraws := rfl

@[simp] theorem State.delay_byteDraws (t : Duration) (s : State) :
    (State.delay t s).byteDraws = s.byteDraws := rfl

@[simp] theorem State.delay_edgeDraws (t : Duration) (s : State) :
    (State.delay t s).edgeDraws = s.edgeDraws := rfl

@[simp] theorem State.delay_frameOut (t : Duration) (s : State) :
    (State.delay t s).frameOut = s.frameOut := rfl

@[simp] theorem State.delay_frameIn (t : Duration) (s : State) :
    (State.delay t s).frameIn = s.frameIn := rfl

@[simp] theorem State.delay_hist (t : Duration) (s : State) :
    (State.delay t s).hist = s.hist ++ [.delay t] := rfl

@[simp] theorem State.raise_cfg (c : FaultCode) (s : State) :
    (State.raise c s).cfg = s.cfg := by
  unfold State.raise; split <;> rfl

@[simp] theorem State.raise_opA (c : FaultCode) (s : State) :
    (State.raise c s).opA = s.opA := by
  unfold State.raise; split <;> rfl

@[simp] theorem State.raise_opD (c : FaultCode) (s : State) :
    (State.raise c s).opD = s.opD := by
  unfold State.raise; split <;> rfl

@[simp] theorem State.raise_opN (c : FaultCode) (s : State) :
    (State.raise c s).opN = s.opN := by
  unfold State.raise; split <;> rfl

@[simp] theorem State.raise_opS (c : FaultCode) (s : State) :
    (State.raise c s).opS = s.opS := by
  unfold State.raise; split <;> rfl

@[simp] theorem State.raise_opT (c : FaultCode) (s : State) :
    (State.raise c s).opT = s.opT := by
  unfold State.raise; split <;> rfl

@[simp] theorem State.raise_q (c : FaultCode) (s : State) :
    (State.raise c s).q = s.q := by
  unfold State.raise; split <;> rfl

@[simp] theorem State.raise_qbuf (c : FaultCode) (s : State) :
    (State.raise c s).qbuf = s.qbuf := by
  unfold State.raise; split <;> rfl

@[simp] theorem State.raise_qt (c : FaultCode) (s : State) :
    (State.raise c s).qt = s.qt := by
  unfold State.raise; split <;> rfl

@[simp] theorem State.raise_cpos (c : FaultCode) (s : State) :
    (State.raise c s).cpos = s.cpos := by
  unfold State.raise; split <;> rfl

@[simp] theorem State.raise_runstate (c : FaultCode) (s : State) :
    (State.raise c s).runstate = s.runstate := by
  unfold State.raise; split <;> rfl

@[simp] theorem State.raise_arch (c : FaultCode) (s : State) :
    (State.raise c s).arch = s.arch := by
  unfold State.raise; split <;> rfl

@[simp] theorem State.raise_speed (c : FaultCode) (s : State) :
    (State.raise c s).speed = s.speed := by
  unfold State.raise; split <;> rfl

@[simp] theorem State.raise_tickArmed (c : FaultCode) (s : State) :
    (State.raise c s).tickArmed = s.tickArmed := by
  unfold State.raise; split <;> rfl

@[simp] theorem State.raise_doorbellLatch (c : FaultCode) (s : State) :
    (State.raise c s).doorbellLatch = s.doorbellLatch := by
  unfold State.raise; split <;> rfl

@[simp] theorem State.raise_dbPending (c : FaultCode) (s : State) :
    (State.raise c s).dbPending = s.dbPending := by
  unfold State.raise; split <;> rfl

@[simp] theorem State.raise_ie (c : FaultCode) (s : State) :
    (State.raise c s).ie = s.ie := by
  unfold State.raise; split <;> rfl

@[simp] theorem State.raise_doorbellIe (c : FaultCode) (s : State) :
    (State.raise c s).doorbellIe = s.doorbellIe := by
  unfold State.raise; split <;> rfl

@[simp] theorem State.raise_initialised (c : FaultCode) (s : State) :
    (State.raise c s).initialised = s.initialised := by
  unfold State.raise; split <;> rfl

@[simp] theorem State.raise_linkBusy (c : FaultCode) (s : State) :
    (State.raise c s).linkBusy = s.linkBusy := by
  unfold State.raise; split <;> rfl

@[simp] theorem State.raise_arbPhase (c : FaultCode) (s : State) :
    (State.raise c s).arbPhase = s.arbPhase := by
  unfold State.raise; split <;> rfl

@[simp] theorem State.raise_arbWasRunning (c : FaultCode) (s : State) :
    (State.raise c s).arbWasRunning = s.arbWasRunning := by
  unfold State.raise; split <;> rfl

@[simp] theorem State.raise_archsel (c : FaultCode) (s : State) :
    (State.raise c s).archsel = s.archsel := by
  unfold State.raise; split <;> rfl

@[simp] theorem State.raise_speedsel (c : FaultCode) (s : State) :
    (State.raise c s).speedsel = s.speedsel := by
  unfold State.raise; split <;> rfl

@[simp] theorem State.raise_resetLine (c : FaultCode) (s : State) :
    (State.raise c s).resetLine = s.resetLine := by
  unfold State.raise; split <;> rfl

@[simp] theorem State.raise_busen (c : FaultCode) (s : State) :
    (State.raise c s).busen = s.busen := by
  unfold State.raise; split <;> rfl

@[simp] theorem State.raise_int (c : FaultCode) (s : State) :
    (State.raise c s).int = s.int := by
  unfold State.raise; split <;> rfl

@[simp] theorem State.raise_ack (c : FaultCode) (s : State) :
    (State.raise c s).ack = s.ack := by
  unfold State.raise; split <;> rfl

@[simp] theorem State.raise_aoe (c : FaultCode) (s : State) :
    (State.raise c s).aoe = s.aoe := by
  unfold State.raise; split <;> rfl

@[simp] theorem State.raise_rwn (c : FaultCode) (s : State) :
    (State.raise c s).rwn = s.rwn := by
  unfold State.raise; split <;> rfl

@[simp] theorem State.raise_latch (c : FaultCode) (s : State) :
    (State.raise c s).latch = s.latch := by
  unfold State.raise; split <;> rfl

@[simp] theorem State.raise_sclk (c : FaultCode) (s : State) :
    (State.raise c s).sclk = s.sclk := by
  unfold State.raise; split <;> rfl

@[simp] theorem State.raise_sdo (c : FaultCode) (s : State) :
    (State.raise c s).sdo = s.sdo := by
  unfold State.raise; split <;> rfl

@[simp] theorem State.raise_sdi (c : FaultCode) (s : State) :
    (State.raise c s).sdi = s.sdi := by
  unfold State.raise; split <;> rfl

@[simp] theorem State.raise_req (c : FaultCode) (s : State) :
    (State.raise c s).req = s.req := by
  unfold State.raise; split <;> rfl

@[simp] theorem State.raise_dbell (c : FaultCode) (s : State) :
    (State.raise c s).dbell = s.dbell := by
  unfold State.raise; split <;> rfl

@[simp] theorem State.raise_srAddr (c : FaultCode) (s : State) :
    (State.raise c s).srAddr = s.srAddr := by
  unfold State.raise; split <;> rfl

@[simp] theorem State.raise_srData (c : FaultCode) (s : State) :
    (State.raise c s).srData = s.srData := by
  unfold State.raise; split <;> rfl

@[simp] theorem State.raise_mem (c : FaultCode) (s : State) :
    (State.raise c s).mem = s.mem := by
  unfold State.raise; split <;> rfl

@[simp] theorem State.raise_setting0 (c : FaultCode) (s : State) :
    (State.raise c s).setting0 = s.setting0 := by
  unfold State.raise; split <;> rfl

@[simp] theorem State.raise_setting1 (c : FaultCode) (s : State) :
    (State.raise c s).setting1 = s.setting1 := by
  unfold State.raise; split <;> rfl

@[simp] theorem State.raise_stream (c : FaultCode) (s : State) :
    (State.raise c s).stream = s.stream := by
  unfold State.raise; split <;> rfl

@[simp] theorem State.raise_refused (c : FaultCode) (s : State) :
    (State.raise c s).refused = s.refused := by
  unfold State.raise; split <;> rfl

@[simp] theorem State.raise_schedule (c : FaultCode) (s : State) :
    (State.raise c s).schedule = s.schedule := by
  unfold State.raise; split <;> rfl

@[simp] theorem State.raise_hostShare (c : FaultCode) (s : State) :
    (State.raise c s).hostShare = s.hostShare := by
  unfold State.raise; split <;> rfl

@[simp] theorem State.raise_endless (c : FaultCode) (s : State) :
    (State.raise c s).endless = s.endless := by
  unfold State.raise; split <;> rfl

@[simp] theorem State.raise_moveDraws (c : FaultCode) (s : State) :
    (State.raise c s).moveDraws = s.moveDraws := by
  unfold State.raise; split <;> rfl

@[simp] theorem State.raise_byteDraws (c : FaultCode) (s : State) :
    (State.raise c s).byteDraws = s.byteDraws := by
  unfold State.raise; split <;> rfl

@[simp] theorem State.raise_edgeDraws (c : FaultCode) (s : State) :
    (State.raise c s).edgeDraws = s.edgeDraws := by
  unfold State.raise; split <;> rfl

@[simp] theorem State.raise_frameOut (c : FaultCode) (s : State) :
    (State.raise c s).frameOut = s.frameOut := by
  unfold State.raise; split <;> rfl

@[simp] theorem State.raise_frameIn (c : FaultCode) (s : State) :
    (State.raise c s).frameIn = s.frameIn := by
  unfold State.raise; split <;> rfl

@[simp] theorem State.complete_cfg (s : State) :
    (State.complete s).cfg = s.cfg := rfl

@[simp] theorem State.complete_opA (s : State) :
    (State.complete s).opA = s.opA := rfl

@[simp] theorem State.complete_opD (s : State) :
    (State.complete s).opD = s.opD := rfl

@[simp] theorem State.complete_opN (s : State) :
    (State.complete s).opN = s.opN := rfl

@[simp] theorem State.complete_opS (s : State) :
    (State.complete s).opS = s.opS := rfl

@[simp] theorem State.complete_opT (s : State) :
    (State.complete s).opT = s.opT := rfl

@[simp] theorem State.complete_q (s : State) :
    (State.complete s).q = s.q := rfl

@[simp] theorem State.complete_qbuf (s : State) :
    (State.complete s).qbuf = s.qbuf := rfl

@[simp] theorem State.complete_qt (s : State) :
    (State.complete s).qt = s.qt := rfl

@[simp] theorem State.complete_runstate (s : State) :
    (State.complete s).runstate = s.runstate := rfl

@[simp] theorem State.complete_arch (s : State) :
    (State.complete s).arch = s.arch := rfl

@[simp] theorem State.complete_speed (s : State) :
    (State.complete s).speed = s.speed := rfl

@[simp] theorem State.complete_tickArmed (s : State) :
    (State.complete s).tickArmed = s.tickArmed := rfl

@[simp] theorem State.complete_doorbellLatch (s : State) :
    (State.complete s).doorbellLatch = s.doorbellLatch := rfl

@[simp] theorem State.complete_dbPending (s : State) :
    (State.complete s).dbPending = s.dbPending := rfl

@[simp] theorem State.complete_ie (s : State) :
    (State.complete s).ie = s.ie := rfl

@[simp] theorem State.complete_doorbellIe (s : State) :
    (State.complete s).doorbellIe = s.doorbellIe := rfl

@[simp] theorem State.complete_initialised (s : State) :
    (State.complete s).initialised = s.initialised := rfl

@[simp] theorem State.complete_fault (s : State) :
    (State.complete s).fault = s.fault := rfl

@[simp] theorem State.complete_linkBusy (s : State) :
    (State.complete s).linkBusy = s.linkBusy := rfl

@[simp] theorem State.complete_arbPhase (s : State) :
    (State.complete s).arbPhase = s.arbPhase := rfl

@[simp] theorem State.complete_arbWasRunning (s : State) :
    (State.complete s).arbWasRunning = s.arbWasRunning := rfl

@[simp] theorem State.complete_archsel (s : State) :
    (State.complete s).archsel = s.archsel := rfl

@[simp] theorem State.complete_speedsel (s : State) :
    (State.complete s).speedsel = s.speedsel := rfl

@[simp] theorem State.complete_resetLine (s : State) :
    (State.complete s).resetLine = s.resetLine := rfl

@[simp] theorem State.complete_busen (s : State) :
    (State.complete s).busen = s.busen := rfl

@[simp] theorem State.complete_int (s : State) :
    (State.complete s).int = s.int := rfl

@[simp] theorem State.complete_ack (s : State) :
    (State.complete s).ack = s.ack := rfl

@[simp] theorem State.complete_aoe (s : State) :
    (State.complete s).aoe = s.aoe := rfl

@[simp] theorem State.complete_rwn (s : State) :
    (State.complete s).rwn = s.rwn := rfl

@[simp] theorem State.complete_latch (s : State) :
    (State.complete s).latch = s.latch := rfl

@[simp] theorem State.complete_sclk (s : State) :
    (State.complete s).sclk = s.sclk := rfl

@[simp] theorem State.complete_sdo (s : State) :
    (State.complete s).sdo = s.sdo := rfl

@[simp] theorem State.complete_sdi (s : State) :
    (State.complete s).sdi = s.sdi := rfl

@[simp] theorem State.complete_req (s : State) :
    (State.complete s).req = s.req := rfl

@[simp] theorem State.complete_dbell (s : State) :
    (State.complete s).dbell = s.dbell := rfl

@[simp] theorem State.complete_srAddr (s : State) :
    (State.complete s).srAddr = s.srAddr := rfl

@[simp] theorem State.complete_srData (s : State) :
    (State.complete s).srData = s.srData := rfl

@[simp] theorem State.complete_mem (s : State) :
    (State.complete s).mem = s.mem := rfl

@[simp] theorem State.complete_setting0 (s : State) :
    (State.complete s).setting0 = s.setting0 := rfl

@[simp] theorem State.complete_setting1 (s : State) :
    (State.complete s).setting1 = s.setting1 := rfl

@[simp] theorem State.complete_hist (s : State) :
    (State.complete s).hist = s.hist := rfl

@[simp] theorem State.complete_stream (s : State) :
    (State.complete s).stream = s.stream := rfl

@[simp] theorem State.complete_refused (s : State) :
    (State.complete s).refused = s.refused := rfl

@[simp] theorem State.complete_schedule (s : State) :
    (State.complete s).schedule = s.schedule := rfl

@[simp] theorem State.complete_hostShare (s : State) :
    (State.complete s).hostShare = s.hostShare := rfl

@[simp] theorem State.complete_endless (s : State) :
    (State.complete s).endless = s.endless := rfl

@[simp] theorem State.complete_moveDraws (s : State) :
    (State.complete s).moveDraws = s.moveDraws := rfl

@[simp] theorem State.complete_byteDraws (s : State) :
    (State.complete s).byteDraws = s.byteDraws := rfl

@[simp] theorem State.complete_edgeDraws (s : State) :
    (State.complete s).edgeDraws = s.edgeDraws := rfl

@[simp] theorem State.complete_frameOut (s : State) :
    (State.complete s).frameOut = s.frameOut := rfl

@[simp] theorem State.complete_frameIn (s : State) :
    (State.complete s).frameIn = s.frameIn := rfl

@[simp] theorem State.complete_cpos (s : State) : (State.complete s).cpos = s.cpos + 1 := rfl

@[simp] theorem State.markRefused_cfg (r : DecodeRefusal) (s : State) :
    (State.markRefused r s).cfg = s.cfg := rfl

@[simp] theorem State.markRefused_opA (r : DecodeRefusal) (s : State) :
    (State.markRefused r s).opA = s.opA := rfl

@[simp] theorem State.markRefused_opD (r : DecodeRefusal) (s : State) :
    (State.markRefused r s).opD = s.opD := rfl

@[simp] theorem State.markRefused_opN (r : DecodeRefusal) (s : State) :
    (State.markRefused r s).opN = s.opN := rfl

@[simp] theorem State.markRefused_opS (r : DecodeRefusal) (s : State) :
    (State.markRefused r s).opS = s.opS := rfl

@[simp] theorem State.markRefused_opT (r : DecodeRefusal) (s : State) :
    (State.markRefused r s).opT = s.opT := rfl

@[simp] theorem State.markRefused_q (r : DecodeRefusal) (s : State) :
    (State.markRefused r s).q = s.q := rfl

@[simp] theorem State.markRefused_qbuf (r : DecodeRefusal) (s : State) :
    (State.markRefused r s).qbuf = s.qbuf := rfl

@[simp] theorem State.markRefused_qt (r : DecodeRefusal) (s : State) :
    (State.markRefused r s).qt = s.qt := rfl

@[simp] theorem State.markRefused_cpos (r : DecodeRefusal) (s : State) :
    (State.markRefused r s).cpos = s.cpos := rfl

@[simp] theorem State.markRefused_runstate (r : DecodeRefusal) (s : State) :
    (State.markRefused r s).runstate = s.runstate := rfl

@[simp] theorem State.markRefused_arch (r : DecodeRefusal) (s : State) :
    (State.markRefused r s).arch = s.arch := rfl

@[simp] theorem State.markRefused_speed (r : DecodeRefusal) (s : State) :
    (State.markRefused r s).speed = s.speed := rfl

@[simp] theorem State.markRefused_tickArmed (r : DecodeRefusal) (s : State) :
    (State.markRefused r s).tickArmed = s.tickArmed := rfl

@[simp] theorem State.markRefused_doorbellLatch (r : DecodeRefusal) (s : State) :
    (State.markRefused r s).doorbellLatch = s.doorbellLatch := rfl

@[simp] theorem State.markRefused_dbPending (r : DecodeRefusal) (s : State) :
    (State.markRefused r s).dbPending = s.dbPending := rfl

@[simp] theorem State.markRefused_ie (r : DecodeRefusal) (s : State) :
    (State.markRefused r s).ie = s.ie := rfl

@[simp] theorem State.markRefused_doorbellIe (r : DecodeRefusal) (s : State) :
    (State.markRefused r s).doorbellIe = s.doorbellIe := rfl

@[simp] theorem State.markRefused_initialised (r : DecodeRefusal) (s : State) :
    (State.markRefused r s).initialised = s.initialised := rfl

@[simp] theorem State.markRefused_fault (r : DecodeRefusal) (s : State) :
    (State.markRefused r s).fault = s.fault := rfl

@[simp] theorem State.markRefused_linkBusy (r : DecodeRefusal) (s : State) :
    (State.markRefused r s).linkBusy = s.linkBusy := rfl

@[simp] theorem State.markRefused_arbPhase (r : DecodeRefusal) (s : State) :
    (State.markRefused r s).arbPhase = s.arbPhase := rfl

@[simp] theorem State.markRefused_arbWasRunning (r : DecodeRefusal) (s : State) :
    (State.markRefused r s).arbWasRunning = s.arbWasRunning := rfl

@[simp] theorem State.markRefused_archsel (r : DecodeRefusal) (s : State) :
    (State.markRefused r s).archsel = s.archsel := rfl

@[simp] theorem State.markRefused_speedsel (r : DecodeRefusal) (s : State) :
    (State.markRefused r s).speedsel = s.speedsel := rfl

@[simp] theorem State.markRefused_resetLine (r : DecodeRefusal) (s : State) :
    (State.markRefused r s).resetLine = s.resetLine := rfl

@[simp] theorem State.markRefused_busen (r : DecodeRefusal) (s : State) :
    (State.markRefused r s).busen = s.busen := rfl

@[simp] theorem State.markRefused_int (r : DecodeRefusal) (s : State) :
    (State.markRefused r s).int = s.int := rfl

@[simp] theorem State.markRefused_ack (r : DecodeRefusal) (s : State) :
    (State.markRefused r s).ack = s.ack := rfl

@[simp] theorem State.markRefused_aoe (r : DecodeRefusal) (s : State) :
    (State.markRefused r s).aoe = s.aoe := rfl

@[simp] theorem State.markRefused_rwn (r : DecodeRefusal) (s : State) :
    (State.markRefused r s).rwn = s.rwn := rfl

@[simp] theorem State.markRefused_latch (r : DecodeRefusal) (s : State) :
    (State.markRefused r s).latch = s.latch := rfl

@[simp] theorem State.markRefused_sclk (r : DecodeRefusal) (s : State) :
    (State.markRefused r s).sclk = s.sclk := rfl

@[simp] theorem State.markRefused_sdo (r : DecodeRefusal) (s : State) :
    (State.markRefused r s).sdo = s.sdo := rfl

@[simp] theorem State.markRefused_sdi (r : DecodeRefusal) (s : State) :
    (State.markRefused r s).sdi = s.sdi := rfl

@[simp] theorem State.markRefused_req (r : DecodeRefusal) (s : State) :
    (State.markRefused r s).req = s.req := rfl

@[simp] theorem State.markRefused_dbell (r : DecodeRefusal) (s : State) :
    (State.markRefused r s).dbell = s.dbell := rfl

@[simp] theorem State.markRefused_srAddr (r : DecodeRefusal) (s : State) :
    (State.markRefused r s).srAddr = s.srAddr := rfl

@[simp] theorem State.markRefused_srData (r : DecodeRefusal) (s : State) :
    (State.markRefused r s).srData = s.srData := rfl

@[simp] theorem State.markRefused_mem (r : DecodeRefusal) (s : State) :
    (State.markRefused r s).mem = s.mem := rfl

@[simp] theorem State.markRefused_setting0 (r : DecodeRefusal) (s : State) :
    (State.markRefused r s).setting0 = s.setting0 := rfl

@[simp] theorem State.markRefused_setting1 (r : DecodeRefusal) (s : State) :
    (State.markRefused r s).setting1 = s.setting1 := rfl

@[simp] theorem State.markRefused_hist (r : DecodeRefusal) (s : State) :
    (State.markRefused r s).hist = s.hist := rfl

@[simp] theorem State.markRefused_stream (r : DecodeRefusal) (s : State) :
    (State.markRefused r s).stream = s.stream := rfl

@[simp] theorem State.markRefused_schedule (r : DecodeRefusal) (s : State) :
    (State.markRefused r s).schedule = s.schedule := rfl

@[simp] theorem State.markRefused_hostShare (r : DecodeRefusal) (s : State) :
    (State.markRefused r s).hostShare = s.hostShare := rfl

@[simp] theorem State.markRefused_endless (r : DecodeRefusal) (s : State) :
    (State.markRefused r s).endless = s.endless := rfl

@[simp] theorem State.markRefused_moveDraws (r : DecodeRefusal) (s : State) :
    (State.markRefused r s).moveDraws = s.moveDraws := rfl

@[simp] theorem State.markRefused_byteDraws (r : DecodeRefusal) (s : State) :
    (State.markRefused r s).byteDraws = s.byteDraws := rfl

@[simp] theorem State.markRefused_edgeDraws (r : DecodeRefusal) (s : State) :
    (State.markRefused r s).edgeDraws = s.edgeDraws := rfl

@[simp] theorem State.markRefused_frameOut (r : DecodeRefusal) (s : State) :
    (State.markRefused r s).frameOut = s.frameOut := rfl

@[simp] theorem State.markRefused_frameIn (r : DecodeRefusal) (s : State) :
    (State.markRefused r s).frameIn = s.frameIn := rfl

@[simp] theorem State.markRefused_refused (r : DecodeRefusal) (s : State) :
    (State.markRefused r s).refused = some { reason := r, cpos := s.cpos } := rfl

@[simp] theorem State.mirrorArch_cfg (s : State) :
    (State.mirrorArch s).cfg = s.cfg := rfl

@[simp] theorem State.mirrorArch_opA (s : State) :
    (State.mirrorArch s).opA = s.opA := rfl

@[simp] theorem State.mirrorArch_opD (s : State) :
    (State.mirrorArch s).opD = s.opD := rfl

@[simp] theorem State.mirrorArch_opN (s : State) :
    (State.mirrorArch s).opN = s.opN := rfl

@[simp] theorem State.mirrorArch_opS (s : State) :
    (State.mirrorArch s).opS = s.opS := rfl

@[simp] theorem State.mirrorArch_opT (s : State) :
    (State.mirrorArch s).opT = s.opT := rfl

@[simp] theorem State.mirrorArch_q (s : State) :
    (State.mirrorArch s).q = s.q := rfl

@[simp] theorem State.mirrorArch_qbuf (s : State) :
    (State.mirrorArch s).qbuf = s.qbuf := rfl

@[simp] theorem State.mirrorArch_qt (s : State) :
    (State.mirrorArch s).qt = s.qt := rfl

@[simp] theorem State.mirrorArch_cpos (s : State) :
    (State.mirrorArch s).cpos = s.cpos := rfl

@[simp] theorem State.mirrorArch_runstate (s : State) :
    (State.mirrorArch s).runstate = s.runstate := rfl

@[simp] theorem State.mirrorArch_arch (s : State) :
    (State.mirrorArch s).arch = s.arch := rfl

@[simp] theorem State.mirrorArch_speed (s : State) :
    (State.mirrorArch s).speed = s.speed := rfl

@[simp] theorem State.mirrorArch_tickArmed (s : State) :
    (State.mirrorArch s).tickArmed = s.tickArmed := rfl

@[simp] theorem State.mirrorArch_doorbellLatch (s : State) :
    (State.mirrorArch s).doorbellLatch = s.doorbellLatch := rfl

@[simp] theorem State.mirrorArch_dbPending (s : State) :
    (State.mirrorArch s).dbPending = s.dbPending := rfl

@[simp] theorem State.mirrorArch_ie (s : State) :
    (State.mirrorArch s).ie = s.ie := rfl

@[simp] theorem State.mirrorArch_doorbellIe (s : State) :
    (State.mirrorArch s).doorbellIe = s.doorbellIe := rfl

@[simp] theorem State.mirrorArch_initialised (s : State) :
    (State.mirrorArch s).initialised = s.initialised := rfl

@[simp] theorem State.mirrorArch_fault (s : State) :
    (State.mirrorArch s).fault = s.fault := rfl

@[simp] theorem State.mirrorArch_linkBusy (s : State) :
    (State.mirrorArch s).linkBusy = s.linkBusy := rfl

@[simp] theorem State.mirrorArch_arbPhase (s : State) :
    (State.mirrorArch s).arbPhase = s.arbPhase := rfl

@[simp] theorem State.mirrorArch_arbWasRunning (s : State) :
    (State.mirrorArch s).arbWasRunning = s.arbWasRunning := rfl

@[simp] theorem State.mirrorArch_speedsel (s : State) :
    (State.mirrorArch s).speedsel = s.speedsel := rfl

@[simp] theorem State.mirrorArch_resetLine (s : State) :
    (State.mirrorArch s).resetLine = s.resetLine := rfl

@[simp] theorem State.mirrorArch_busen (s : State) :
    (State.mirrorArch s).busen = s.busen := rfl

@[simp] theorem State.mirrorArch_int (s : State) :
    (State.mirrorArch s).int = s.int := rfl

@[simp] theorem State.mirrorArch_ack (s : State) :
    (State.mirrorArch s).ack = s.ack := rfl

@[simp] theorem State.mirrorArch_aoe (s : State) :
    (State.mirrorArch s).aoe = s.aoe := rfl

@[simp] theorem State.mirrorArch_rwn (s : State) :
    (State.mirrorArch s).rwn = s.rwn := rfl

@[simp] theorem State.mirrorArch_latch (s : State) :
    (State.mirrorArch s).latch = s.latch := rfl

@[simp] theorem State.mirrorArch_sclk (s : State) :
    (State.mirrorArch s).sclk = s.sclk := rfl

@[simp] theorem State.mirrorArch_sdo (s : State) :
    (State.mirrorArch s).sdo = s.sdo := rfl

@[simp] theorem State.mirrorArch_sdi (s : State) :
    (State.mirrorArch s).sdi = s.sdi := rfl

@[simp] theorem State.mirrorArch_req (s : State) :
    (State.mirrorArch s).req = s.req := rfl

@[simp] theorem State.mirrorArch_dbell (s : State) :
    (State.mirrorArch s).dbell = s.dbell := rfl

@[simp] theorem State.mirrorArch_srAddr (s : State) :
    (State.mirrorArch s).srAddr = s.srAddr := rfl

@[simp] theorem State.mirrorArch_srData (s : State) :
    (State.mirrorArch s).srData = s.srData := rfl

@[simp] theorem State.mirrorArch_mem (s : State) :
    (State.mirrorArch s).mem = s.mem := rfl

@[simp] theorem State.mirrorArch_setting0 (s : State) :
    (State.mirrorArch s).setting0 = s.setting0 := rfl

@[simp] theorem State.mirrorArch_setting1 (s : State) :
    (State.mirrorArch s).setting1 = s.setting1 := rfl

@[simp] theorem State.mirrorArch_stream (s : State) :
    (State.mirrorArch s).stream = s.stream := rfl

@[simp] theorem State.mirrorArch_refused (s : State) :
    (State.mirrorArch s).refused = s.refused := rfl

@[simp] theorem State.mirrorArch_schedule (s : State) :
    (State.mirrorArch s).schedule = s.schedule := rfl

@[simp] theorem State.mirrorArch_hostShare (s : State) :
    (State.mirrorArch s).hostShare = s.hostShare := rfl

@[simp] theorem State.mirrorArch_endless (s : State) :
    (State.mirrorArch s).endless = s.endless := rfl

@[simp] theorem State.mirrorArch_moveDraws (s : State) :
    (State.mirrorArch s).moveDraws = s.moveDraws := rfl

@[simp] theorem State.mirrorArch_byteDraws (s : State) :
    (State.mirrorArch s).byteDraws = s.byteDraws := rfl

@[simp] theorem State.mirrorArch_edgeDraws (s : State) :
    (State.mirrorArch s).edgeDraws = s.edgeDraws := rfl

@[simp] theorem State.mirrorArch_frameOut (s : State) :
    (State.mirrorArch s).frameOut = s.frameOut := rfl

@[simp] theorem State.mirrorArch_frameIn (s : State) :
    (State.mirrorArch s).frameIn = s.frameIn := rfl

@[simp] theorem State.mirrorSpeed_cfg (s : State) :
    (State.mirrorSpeed s).cfg = s.cfg := rfl

@[simp] theorem State.mirrorSpeed_opA (s : State) :
    (State.mirrorSpeed s).opA = s.opA := rfl

@[simp] theorem State.mirrorSpeed_opD (s : State) :
    (State.mirrorSpeed s).opD = s.opD := rfl

@[simp] theorem State.mirrorSpeed_opN (s : State) :
    (State.mirrorSpeed s).opN = s.opN := rfl

@[simp] theorem State.mirrorSpeed_opS (s : State) :
    (State.mirrorSpeed s).opS = s.opS := rfl

@[simp] theorem State.mirrorSpeed_opT (s : State) :
    (State.mirrorSpeed s).opT = s.opT := rfl

@[simp] theorem State.mirrorSpeed_q (s : State) :
    (State.mirrorSpeed s).q = s.q := rfl

@[simp] theorem State.mirrorSpeed_qbuf (s : State) :
    (State.mirrorSpeed s).qbuf = s.qbuf := rfl

@[simp] theorem State.mirrorSpeed_qt (s : State) :
    (State.mirrorSpeed s).qt = s.qt := rfl

@[simp] theorem State.mirrorSpeed_cpos (s : State) :
    (State.mirrorSpeed s).cpos = s.cpos := rfl

@[simp] theorem State.mirrorSpeed_runstate (s : State) :
    (State.mirrorSpeed s).runstate = s.runstate := rfl

@[simp] theorem State.mirrorSpeed_arch (s : State) :
    (State.mirrorSpeed s).arch = s.arch := rfl

@[simp] theorem State.mirrorSpeed_speed (s : State) :
    (State.mirrorSpeed s).speed = s.speed := rfl

@[simp] theorem State.mirrorSpeed_tickArmed (s : State) :
    (State.mirrorSpeed s).tickArmed = s.tickArmed := rfl

@[simp] theorem State.mirrorSpeed_doorbellLatch (s : State) :
    (State.mirrorSpeed s).doorbellLatch = s.doorbellLatch := rfl

@[simp] theorem State.mirrorSpeed_dbPending (s : State) :
    (State.mirrorSpeed s).dbPending = s.dbPending := rfl

@[simp] theorem State.mirrorSpeed_ie (s : State) :
    (State.mirrorSpeed s).ie = s.ie := rfl

@[simp] theorem State.mirrorSpeed_doorbellIe (s : State) :
    (State.mirrorSpeed s).doorbellIe = s.doorbellIe := rfl

@[simp] theorem State.mirrorSpeed_initialised (s : State) :
    (State.mirrorSpeed s).initialised = s.initialised := rfl

@[simp] theorem State.mirrorSpeed_fault (s : State) :
    (State.mirrorSpeed s).fault = s.fault := rfl

@[simp] theorem State.mirrorSpeed_linkBusy (s : State) :
    (State.mirrorSpeed s).linkBusy = s.linkBusy := rfl

@[simp] theorem State.mirrorSpeed_arbPhase (s : State) :
    (State.mirrorSpeed s).arbPhase = s.arbPhase := rfl

@[simp] theorem State.mirrorSpeed_arbWasRunning (s : State) :
    (State.mirrorSpeed s).arbWasRunning = s.arbWasRunning := rfl

@[simp] theorem State.mirrorSpeed_archsel (s : State) :
    (State.mirrorSpeed s).archsel = s.archsel := rfl

@[simp] theorem State.mirrorSpeed_resetLine (s : State) :
    (State.mirrorSpeed s).resetLine = s.resetLine := rfl

@[simp] theorem State.mirrorSpeed_busen (s : State) :
    (State.mirrorSpeed s).busen = s.busen := rfl

@[simp] theorem State.mirrorSpeed_int (s : State) :
    (State.mirrorSpeed s).int = s.int := rfl

@[simp] theorem State.mirrorSpeed_ack (s : State) :
    (State.mirrorSpeed s).ack = s.ack := rfl

@[simp] theorem State.mirrorSpeed_aoe (s : State) :
    (State.mirrorSpeed s).aoe = s.aoe := rfl

@[simp] theorem State.mirrorSpeed_rwn (s : State) :
    (State.mirrorSpeed s).rwn = s.rwn := rfl

@[simp] theorem State.mirrorSpeed_latch (s : State) :
    (State.mirrorSpeed s).latch = s.latch := rfl

@[simp] theorem State.mirrorSpeed_sclk (s : State) :
    (State.mirrorSpeed s).sclk = s.sclk := rfl

@[simp] theorem State.mirrorSpeed_sdo (s : State) :
    (State.mirrorSpeed s).sdo = s.sdo := rfl

@[simp] theorem State.mirrorSpeed_sdi (s : State) :
    (State.mirrorSpeed s).sdi = s.sdi := rfl

@[simp] theorem State.mirrorSpeed_req (s : State) :
    (State.mirrorSpeed s).req = s.req := rfl

@[simp] theorem State.mirrorSpeed_dbell (s : State) :
    (State.mirrorSpeed s).dbell = s.dbell := rfl

@[simp] theorem State.mirrorSpeed_srAddr (s : State) :
    (State.mirrorSpeed s).srAddr = s.srAddr := rfl

@[simp] theorem State.mirrorSpeed_srData (s : State) :
    (State.mirrorSpeed s).srData = s.srData := rfl

@[simp] theorem State.mirrorSpeed_mem (s : State) :
    (State.mirrorSpeed s).mem = s.mem := rfl

@[simp] theorem State.mirrorSpeed_setting0 (s : State) :
    (State.mirrorSpeed s).setting0 = s.setting0 := rfl

@[simp] theorem State.mirrorSpeed_setting1 (s : State) :
    (State.mirrorSpeed s).setting1 = s.setting1 := rfl

@[simp] theorem State.mirrorSpeed_stream (s : State) :
    (State.mirrorSpeed s).stream = s.stream := rfl

@[simp] theorem State.mirrorSpeed_refused (s : State) :
    (State.mirrorSpeed s).refused = s.refused := rfl

@[simp] theorem State.mirrorSpeed_schedule (s : State) :
    (State.mirrorSpeed s).schedule = s.schedule := rfl

@[simp] theorem State.mirrorSpeed_hostShare (s : State) :
    (State.mirrorSpeed s).hostShare = s.hostShare := rfl

@[simp] theorem State.mirrorSpeed_endless (s : State) :
    (State.mirrorSpeed s).endless = s.endless := rfl

@[simp] theorem State.mirrorSpeed_moveDraws (s : State) :
    (State.mirrorSpeed s).moveDraws = s.moveDraws := rfl

@[simp] theorem State.mirrorSpeed_byteDraws (s : State) :
    (State.mirrorSpeed s).byteDraws = s.byteDraws := rfl

@[simp] theorem State.mirrorSpeed_edgeDraws (s : State) :
    (State.mirrorSpeed s).edgeDraws = s.edgeDraws := rfl

@[simp] theorem State.mirrorSpeed_frameOut (s : State) :
    (State.mirrorSpeed s).frameOut = s.frameOut := rfl

@[simp] theorem State.mirrorSpeed_frameIn (s : State) :
    (State.mirrorSpeed s).frameIn = s.frameIn := rfl

@[simp] theorem State.mirrorArch_archsel (s : State) : (State.mirrorArch s).archsel = archLevel s.arch := rfl

@[simp] theorem State.mirrorArch_hist (s : State) :
    (State.mirrorArch s).hist = s.hist ++ [.line .archsel (archLevel s.arch)] := rfl

@[simp] theorem State.mirrorSpeed_speedsel (s : State) : (State.mirrorSpeed s).speedsel = speedLevel s.speed := rfl

@[simp] theorem State.mirrorSpeed_hist (s : State) :
    (State.mirrorSpeed s).hist = s.hist ++ [.line .speedsel (speedLevel s.speed)] := rfl

/-! ### Link registers -/

@[simp] theorem State.shiftOut_cfg (bits : List Bool) (s : State) :
    (State.shiftOut bits s).cfg = s.cfg := rfl

@[simp] theorem State.shiftOut_opA (bits : List Bool) (s : State) :
    (State.shiftOut bits s).opA = s.opA := rfl

@[simp] theorem State.shiftOut_opD (bits : List Bool) (s : State) :
    (State.shiftOut bits s).opD = s.opD := rfl

@[simp] theorem State.shiftOut_opN (bits : List Bool) (s : State) :
    (State.shiftOut bits s).opN = s.opN := rfl

@[simp] theorem State.shiftOut_opS (bits : List Bool) (s : State) :
    (State.shiftOut bits s).opS = s.opS := rfl

@[simp] theorem State.shiftOut_opT (bits : List Bool) (s : State) :
    (State.shiftOut bits s).opT = s.opT := rfl

@[simp] theorem State.shiftOut_q (bits : List Bool) (s : State) :
    (State.shiftOut bits s).q = s.q := rfl

@[simp] theorem State.shiftOut_qbuf (bits : List Bool) (s : State) :
    (State.shiftOut bits s).qbuf = s.qbuf := rfl

@[simp] theorem State.shiftOut_qt (bits : List Bool) (s : State) :
    (State.shiftOut bits s).qt = s.qt := rfl

@[simp] theorem State.shiftOut_cpos (bits : List Bool) (s : State) :
    (State.shiftOut bits s).cpos = s.cpos := rfl

@[simp] theorem State.shiftOut_runstate (bits : List Bool) (s : State) :
    (State.shiftOut bits s).runstate = s.runstate := rfl

@[simp] theorem State.shiftOut_arch (bits : List Bool) (s : State) :
    (State.shiftOut bits s).arch = s.arch := rfl

@[simp] theorem State.shiftOut_speed (bits : List Bool) (s : State) :
    (State.shiftOut bits s).speed = s.speed := rfl

@[simp] theorem State.shiftOut_tickArmed (bits : List Bool) (s : State) :
    (State.shiftOut bits s).tickArmed = s.tickArmed := rfl

@[simp] theorem State.shiftOut_doorbellLatch (bits : List Bool) (s : State) :
    (State.shiftOut bits s).doorbellLatch = s.doorbellLatch := rfl

@[simp] theorem State.shiftOut_dbPending (bits : List Bool) (s : State) :
    (State.shiftOut bits s).dbPending = s.dbPending := rfl

@[simp] theorem State.shiftOut_ie (bits : List Bool) (s : State) :
    (State.shiftOut bits s).ie = s.ie := rfl

@[simp] theorem State.shiftOut_doorbellIe (bits : List Bool) (s : State) :
    (State.shiftOut bits s).doorbellIe = s.doorbellIe := rfl

@[simp] theorem State.shiftOut_initialised (bits : List Bool) (s : State) :
    (State.shiftOut bits s).initialised = s.initialised := rfl

@[simp] theorem State.shiftOut_fault (bits : List Bool) (s : State) :
    (State.shiftOut bits s).fault = s.fault := rfl

@[simp] theorem State.shiftOut_linkBusy (bits : List Bool) (s : State) :
    (State.shiftOut bits s).linkBusy = s.linkBusy := rfl

@[simp] theorem State.shiftOut_arbPhase (bits : List Bool) (s : State) :
    (State.shiftOut bits s).arbPhase = s.arbPhase := rfl

@[simp] theorem State.shiftOut_arbWasRunning (bits : List Bool) (s : State) :
    (State.shiftOut bits s).arbWasRunning = s.arbWasRunning := rfl

@[simp] theorem State.shiftOut_archsel (bits : List Bool) (s : State) :
    (State.shiftOut bits s).archsel = s.archsel := rfl

@[simp] theorem State.shiftOut_speedsel (bits : List Bool) (s : State) :
    (State.shiftOut bits s).speedsel = s.speedsel := rfl

@[simp] theorem State.shiftOut_resetLine (bits : List Bool) (s : State) :
    (State.shiftOut bits s).resetLine = s.resetLine := rfl

@[simp] theorem State.shiftOut_busen (bits : List Bool) (s : State) :
    (State.shiftOut bits s).busen = s.busen := rfl

@[simp] theorem State.shiftOut_int (bits : List Bool) (s : State) :
    (State.shiftOut bits s).int = s.int := rfl

@[simp] theorem State.shiftOut_ack (bits : List Bool) (s : State) :
    (State.shiftOut bits s).ack = s.ack := rfl

@[simp] theorem State.shiftOut_aoe (bits : List Bool) (s : State) :
    (State.shiftOut bits s).aoe = s.aoe := rfl

@[simp] theorem State.shiftOut_rwn (bits : List Bool) (s : State) :
    (State.shiftOut bits s).rwn = s.rwn := rfl

@[simp] theorem State.shiftOut_latch (bits : List Bool) (s : State) :
    (State.shiftOut bits s).latch = s.latch := rfl

@[simp] theorem State.shiftOut_sdi (bits : List Bool) (s : State) :
    (State.shiftOut bits s).sdi = s.sdi := rfl

@[simp] theorem State.shiftOut_req (bits : List Bool) (s : State) :
    (State.shiftOut bits s).req = s.req := rfl

@[simp] theorem State.shiftOut_dbell (bits : List Bool) (s : State) :
    (State.shiftOut bits s).dbell = s.dbell := rfl

@[simp] theorem State.shiftOut_srAddr (bits : List Bool) (s : State) :
    (State.shiftOut bits s).srAddr = s.srAddr := rfl

@[simp] theorem State.shiftOut_srData (bits : List Bool) (s : State) :
    (State.shiftOut bits s).srData = s.srData := rfl

@[simp] theorem State.shiftOut_mem (bits : List Bool) (s : State) :
    (State.shiftOut bits s).mem = s.mem := rfl

@[simp] theorem State.shiftOut_setting0 (bits : List Bool) (s : State) :
    (State.shiftOut bits s).setting0 = s.setting0 := rfl

@[simp] theorem State.shiftOut_setting1 (bits : List Bool) (s : State) :
    (State.shiftOut bits s).setting1 = s.setting1 := rfl

@[simp] theorem State.shiftOut_hist (bits : List Bool) (s : State) :
    (State.shiftOut bits s).hist = s.hist := rfl

@[simp] theorem State.shiftOut_stream (bits : List Bool) (s : State) :
    (State.shiftOut bits s).stream = s.stream := rfl

@[simp] theorem State.shiftOut_refused (bits : List Bool) (s : State) :
    (State.shiftOut bits s).refused = s.refused := rfl

@[simp] theorem State.shiftOut_schedule (bits : List Bool) (s : State) :
    (State.shiftOut bits s).schedule = s.schedule := rfl

@[simp] theorem State.shiftOut_hostShare (bits : List Bool) (s : State) :
    (State.shiftOut bits s).hostShare = s.hostShare := rfl

@[simp] theorem State.shiftOut_endless (bits : List Bool) (s : State) :
    (State.shiftOut bits s).endless = s.endless := rfl

@[simp] theorem State.shiftOut_moveDraws (bits : List Bool) (s : State) :
    (State.shiftOut bits s).moveDraws = s.moveDraws := rfl

@[simp] theorem State.shiftOut_byteDraws (bits : List Bool) (s : State) :
    (State.shiftOut bits s).byteDraws = s.byteDraws := rfl

@[simp] theorem State.shiftOut_edgeDraws (bits : List Bool) (s : State) :
    (State.shiftOut bits s).edgeDraws = s.edgeDraws := rfl

@[simp] theorem State.shiftOut_frameIn (bits : List Bool) (s : State) :
    (State.shiftOut bits s).frameIn = s.frameIn := rfl

@[simp] theorem State.loadAddr_cfg (bits : List Bool) (s : State) :
    (State.loadAddr bits s).cfg = s.cfg := rfl

@[simp] theorem State.loadAddr_opA (bits : List Bool) (s : State) :
    (State.loadAddr bits s).opA = s.opA := rfl

@[simp] theorem State.loadAddr_opD (bits : List Bool) (s : State) :
    (State.loadAddr bits s).opD = s.opD := rfl

@[simp] theorem State.loadAddr_opN (bits : List Bool) (s : State) :
    (State.loadAddr bits s).opN = s.opN := rfl

@[simp] theorem State.loadAddr_opS (bits : List Bool) (s : State) :
    (State.loadAddr bits s).opS = s.opS := rfl

@[simp] theorem State.loadAddr_opT (bits : List Bool) (s : State) :
    (State.loadAddr bits s).opT = s.opT := rfl

@[simp] theorem State.loadAddr_q (bits : List Bool) (s : State) :
    (State.loadAddr bits s).q = s.q := rfl

@[simp] theorem State.loadAddr_qbuf (bits : List Bool) (s : State) :
    (State.loadAddr bits s).qbuf = s.qbuf := rfl

@[simp] theorem State.loadAddr_qt (bits : List Bool) (s : State) :
    (State.loadAddr bits s).qt = s.qt := rfl

@[simp] theorem State.loadAddr_cpos (bits : List Bool) (s : State) :
    (State.loadAddr bits s).cpos = s.cpos := rfl

@[simp] theorem State.loadAddr_runstate (bits : List Bool) (s : State) :
    (State.loadAddr bits s).runstate = s.runstate := rfl

@[simp] theorem State.loadAddr_arch (bits : List Bool) (s : State) :
    (State.loadAddr bits s).arch = s.arch := rfl

@[simp] theorem State.loadAddr_speed (bits : List Bool) (s : State) :
    (State.loadAddr bits s).speed = s.speed := rfl

@[simp] theorem State.loadAddr_tickArmed (bits : List Bool) (s : State) :
    (State.loadAddr bits s).tickArmed = s.tickArmed := rfl

@[simp] theorem State.loadAddr_doorbellLatch (bits : List Bool) (s : State) :
    (State.loadAddr bits s).doorbellLatch = s.doorbellLatch := rfl

@[simp] theorem State.loadAddr_dbPending (bits : List Bool) (s : State) :
    (State.loadAddr bits s).dbPending = s.dbPending := rfl

@[simp] theorem State.loadAddr_ie (bits : List Bool) (s : State) :
    (State.loadAddr bits s).ie = s.ie := rfl

@[simp] theorem State.loadAddr_doorbellIe (bits : List Bool) (s : State) :
    (State.loadAddr bits s).doorbellIe = s.doorbellIe := rfl

@[simp] theorem State.loadAddr_initialised (bits : List Bool) (s : State) :
    (State.loadAddr bits s).initialised = s.initialised := rfl

@[simp] theorem State.loadAddr_fault (bits : List Bool) (s : State) :
    (State.loadAddr bits s).fault = s.fault := rfl

@[simp] theorem State.loadAddr_linkBusy (bits : List Bool) (s : State) :
    (State.loadAddr bits s).linkBusy = s.linkBusy := rfl

@[simp] theorem State.loadAddr_arbPhase (bits : List Bool) (s : State) :
    (State.loadAddr bits s).arbPhase = s.arbPhase := rfl

@[simp] theorem State.loadAddr_arbWasRunning (bits : List Bool) (s : State) :
    (State.loadAddr bits s).arbWasRunning = s.arbWasRunning := rfl

@[simp] theorem State.loadAddr_archsel (bits : List Bool) (s : State) :
    (State.loadAddr bits s).archsel = s.archsel := rfl

@[simp] theorem State.loadAddr_speedsel (bits : List Bool) (s : State) :
    (State.loadAddr bits s).speedsel = s.speedsel := rfl

@[simp] theorem State.loadAddr_resetLine (bits : List Bool) (s : State) :
    (State.loadAddr bits s).resetLine = s.resetLine := rfl

@[simp] theorem State.loadAddr_busen (bits : List Bool) (s : State) :
    (State.loadAddr bits s).busen = s.busen := rfl

@[simp] theorem State.loadAddr_int (bits : List Bool) (s : State) :
    (State.loadAddr bits s).int = s.int := rfl

@[simp] theorem State.loadAddr_ack (bits : List Bool) (s : State) :
    (State.loadAddr bits s).ack = s.ack := rfl

@[simp] theorem State.loadAddr_aoe (bits : List Bool) (s : State) :
    (State.loadAddr bits s).aoe = s.aoe := rfl

@[simp] theorem State.loadAddr_rwn (bits : List Bool) (s : State) :
    (State.loadAddr bits s).rwn = s.rwn := rfl

@[simp] theorem State.loadAddr_latch (bits : List Bool) (s : State) :
    (State.loadAddr bits s).latch = s.latch := rfl

@[simp] theorem State.loadAddr_sclk (bits : List Bool) (s : State) :
    (State.loadAddr bits s).sclk = s.sclk := rfl

@[simp] theorem State.loadAddr_sdo (bits : List Bool) (s : State) :
    (State.loadAddr bits s).sdo = s.sdo := rfl

@[simp] theorem State.loadAddr_sdi (bits : List Bool) (s : State) :
    (State.loadAddr bits s).sdi = s.sdi := rfl

@[simp] theorem State.loadAddr_req (bits : List Bool) (s : State) :
    (State.loadAddr bits s).req = s.req := rfl

@[simp] theorem State.loadAddr_dbell (bits : List Bool) (s : State) :
    (State.loadAddr bits s).dbell = s.dbell := rfl

@[simp] theorem State.loadAddr_srData (bits : List Bool) (s : State) :
    (State.loadAddr bits s).srData = s.srData := rfl

@[simp] theorem State.loadAddr_mem (bits : List Bool) (s : State) :
    (State.loadAddr bits s).mem = s.mem := rfl

@[simp] theorem State.loadAddr_setting0 (bits : List Bool) (s : State) :
    (State.loadAddr bits s).setting0 = s.setting0 := rfl

@[simp] theorem State.loadAddr_setting1 (bits : List Bool) (s : State) :
    (State.loadAddr bits s).setting1 = s.setting1 := rfl

@[simp] theorem State.loadAddr_hist (bits : List Bool) (s : State) :
    (State.loadAddr bits s).hist = s.hist := rfl

@[simp] theorem State.loadAddr_stream (bits : List Bool) (s : State) :
    (State.loadAddr bits s).stream = s.stream := rfl

@[simp] theorem State.loadAddr_refused (bits : List Bool) (s : State) :
    (State.loadAddr bits s).refused = s.refused := rfl

@[simp] theorem State.loadAddr_schedule (bits : List Bool) (s : State) :
    (State.loadAddr bits s).schedule = s.schedule := rfl

@[simp] theorem State.loadAddr_hostShare (bits : List Bool) (s : State) :
    (State.loadAddr bits s).hostShare = s.hostShare := rfl

@[simp] theorem State.loadAddr_endless (bits : List Bool) (s : State) :
    (State.loadAddr bits s).endless = s.endless := rfl

@[simp] theorem State.loadAddr_moveDraws (bits : List Bool) (s : State) :
    (State.loadAddr bits s).moveDraws = s.moveDraws := rfl

@[simp] theorem State.loadAddr_byteDraws (bits : List Bool) (s : State) :
    (State.loadAddr bits s).byteDraws = s.byteDraws := rfl

@[simp] theorem State.loadAddr_edgeDraws (bits : List Bool) (s : State) :
    (State.loadAddr bits s).edgeDraws = s.edgeDraws := rfl

@[simp] theorem State.loadAddr_frameOut (bits : List Bool) (s : State) :
    (State.loadAddr bits s).frameOut = s.frameOut := rfl

@[simp] theorem State.loadAddr_frameIn (bits : List Bool) (s : State) :
    (State.loadAddr bits s).frameIn = s.frameIn := rfl

@[simp] theorem State.loadData_cfg (bits : List Bool) (s : State) :
    (State.loadData bits s).cfg = s.cfg := rfl

@[simp] theorem State.loadData_opA (bits : List Bool) (s : State) :
    (State.loadData bits s).opA = s.opA := rfl

@[simp] theorem State.loadData_opD (bits : List Bool) (s : State) :
    (State.loadData bits s).opD = s.opD := rfl

@[simp] theorem State.loadData_opN (bits : List Bool) (s : State) :
    (State.loadData bits s).opN = s.opN := rfl

@[simp] theorem State.loadData_opS (bits : List Bool) (s : State) :
    (State.loadData bits s).opS = s.opS := rfl

@[simp] theorem State.loadData_opT (bits : List Bool) (s : State) :
    (State.loadData bits s).opT = s.opT := rfl

@[simp] theorem State.loadData_q (bits : List Bool) (s : State) :
    (State.loadData bits s).q = s.q := rfl

@[simp] theorem State.loadData_qbuf (bits : List Bool) (s : State) :
    (State.loadData bits s).qbuf = s.qbuf := rfl

@[simp] theorem State.loadData_qt (bits : List Bool) (s : State) :
    (State.loadData bits s).qt = s.qt := rfl

@[simp] theorem State.loadData_cpos (bits : List Bool) (s : State) :
    (State.loadData bits s).cpos = s.cpos := rfl

@[simp] theorem State.loadData_runstate (bits : List Bool) (s : State) :
    (State.loadData bits s).runstate = s.runstate := rfl

@[simp] theorem State.loadData_arch (bits : List Bool) (s : State) :
    (State.loadData bits s).arch = s.arch := rfl

@[simp] theorem State.loadData_speed (bits : List Bool) (s : State) :
    (State.loadData bits s).speed = s.speed := rfl

@[simp] theorem State.loadData_tickArmed (bits : List Bool) (s : State) :
    (State.loadData bits s).tickArmed = s.tickArmed := rfl

@[simp] theorem State.loadData_doorbellLatch (bits : List Bool) (s : State) :
    (State.loadData bits s).doorbellLatch = s.doorbellLatch := rfl

@[simp] theorem State.loadData_dbPending (bits : List Bool) (s : State) :
    (State.loadData bits s).dbPending = s.dbPending := rfl

@[simp] theorem State.loadData_ie (bits : List Bool) (s : State) :
    (State.loadData bits s).ie = s.ie := rfl

@[simp] theorem State.loadData_doorbellIe (bits : List Bool) (s : State) :
    (State.loadData bits s).doorbellIe = s.doorbellIe := rfl

@[simp] theorem State.loadData_initialised (bits : List Bool) (s : State) :
    (State.loadData bits s).initialised = s.initialised := rfl

@[simp] theorem State.loadData_fault (bits : List Bool) (s : State) :
    (State.loadData bits s).fault = s.fault := rfl

@[simp] theorem State.loadData_linkBusy (bits : List Bool) (s : State) :
    (State.loadData bits s).linkBusy = s.linkBusy := rfl

@[simp] theorem State.loadData_arbPhase (bits : List Bool) (s : State) :
    (State.loadData bits s).arbPhase = s.arbPhase := rfl

@[simp] theorem State.loadData_arbWasRunning (bits : List Bool) (s : State) :
    (State.loadData bits s).arbWasRunning = s.arbWasRunning := rfl

@[simp] theorem State.loadData_archsel (bits : List Bool) (s : State) :
    (State.loadData bits s).archsel = s.archsel := rfl

@[simp] theorem State.loadData_speedsel (bits : List Bool) (s : State) :
    (State.loadData bits s).speedsel = s.speedsel := rfl

@[simp] theorem State.loadData_resetLine (bits : List Bool) (s : State) :
    (State.loadData bits s).resetLine = s.resetLine := rfl

@[simp] theorem State.loadData_busen (bits : List Bool) (s : State) :
    (State.loadData bits s).busen = s.busen := rfl

@[simp] theorem State.loadData_int (bits : List Bool) (s : State) :
    (State.loadData bits s).int = s.int := rfl

@[simp] theorem State.loadData_ack (bits : List Bool) (s : State) :
    (State.loadData bits s).ack = s.ack := rfl

@[simp] theorem State.loadData_aoe (bits : List Bool) (s : State) :
    (State.loadData bits s).aoe = s.aoe := rfl

@[simp] theorem State.loadData_rwn (bits : List Bool) (s : State) :
    (State.loadData bits s).rwn = s.rwn := rfl

@[simp] theorem State.loadData_latch (bits : List Bool) (s : State) :
    (State.loadData bits s).latch = s.latch := rfl

@[simp] theorem State.loadData_sclk (bits : List Bool) (s : State) :
    (State.loadData bits s).sclk = s.sclk := rfl

@[simp] theorem State.loadData_sdo (bits : List Bool) (s : State) :
    (State.loadData bits s).sdo = s.sdo := rfl

@[simp] theorem State.loadData_sdi (bits : List Bool) (s : State) :
    (State.loadData bits s).sdi = s.sdi := rfl

@[simp] theorem State.loadData_req (bits : List Bool) (s : State) :
    (State.loadData bits s).req = s.req := rfl

@[simp] theorem State.loadData_dbell (bits : List Bool) (s : State) :
    (State.loadData bits s).dbell = s.dbell := rfl

@[simp] theorem State.loadData_srAddr (bits : List Bool) (s : State) :
    (State.loadData bits s).srAddr = s.srAddr := rfl

@[simp] theorem State.loadData_mem (bits : List Bool) (s : State) :
    (State.loadData bits s).mem = s.mem := rfl

@[simp] theorem State.loadData_setting0 (bits : List Bool) (s : State) :
    (State.loadData bits s).setting0 = s.setting0 := rfl

@[simp] theorem State.loadData_setting1 (bits : List Bool) (s : State) :
    (State.loadData bits s).setting1 = s.setting1 := rfl

@[simp] theorem State.loadData_hist (bits : List Bool) (s : State) :
    (State.loadData bits s).hist = s.hist := rfl

@[simp] theorem State.loadData_stream (bits : List Bool) (s : State) :
    (State.loadData bits s).stream = s.stream := rfl

@[simp] theorem State.loadData_refused (bits : List Bool) (s : State) :
    (State.loadData bits s).refused = s.refused := rfl

@[simp] theorem State.loadData_schedule (bits : List Bool) (s : State) :
    (State.loadData bits s).schedule = s.schedule := rfl

@[simp] theorem State.loadData_hostShare (bits : List Bool) (s : State) :
    (State.loadData bits s).hostShare = s.hostShare := rfl

@[simp] theorem State.loadData_endless (bits : List Bool) (s : State) :
    (State.loadData bits s).endless = s.endless := rfl

@[simp] theorem State.loadData_moveDraws (bits : List Bool) (s : State) :
    (State.loadData bits s).moveDraws = s.moveDraws := rfl

@[simp] theorem State.loadData_byteDraws (bits : List Bool) (s : State) :
    (State.loadData bits s).byteDraws = s.byteDraws := rfl

@[simp] theorem State.loadData_edgeDraws (bits : List Bool) (s : State) :
    (State.loadData bits s).edgeDraws = s.edgeDraws := rfl

@[simp] theorem State.loadData_frameOut (bits : List Bool) (s : State) :
    (State.loadData bits s).frameOut = s.frameOut := rfl

@[simp] theorem State.storeRam_cfg (a : Addr) (v : Byte) (s : State) :
    (State.storeRam a v s).cfg = s.cfg := by
  unfold State.storeRam; split <;> rfl

@[simp] theorem State.storeRam_opA (a : Addr) (v : Byte) (s : State) :
    (State.storeRam a v s).opA = s.opA := by
  unfold State.storeRam; split <;> rfl

@[simp] theorem State.storeRam_opD (a : Addr) (v : Byte) (s : State) :
    (State.storeRam a v s).opD = s.opD := by
  unfold State.storeRam; split <;> rfl

@[simp] theorem State.storeRam_opN (a : Addr) (v : Byte) (s : State) :
    (State.storeRam a v s).opN = s.opN := by
  unfold State.storeRam; split <;> rfl

@[simp] theorem State.storeRam_opS (a : Addr) (v : Byte) (s : State) :
    (State.storeRam a v s).opS = s.opS := by
  unfold State.storeRam; split <;> rfl

@[simp] theorem State.storeRam_opT (a : Addr) (v : Byte) (s : State) :
    (State.storeRam a v s).opT = s.opT := by
  unfold State.storeRam; split <;> rfl

@[simp] theorem State.storeRam_q (a : Addr) (v : Byte) (s : State) :
    (State.storeRam a v s).q = s.q := by
  unfold State.storeRam; split <;> rfl

@[simp] theorem State.storeRam_qbuf (a : Addr) (v : Byte) (s : State) :
    (State.storeRam a v s).qbuf = s.qbuf := by
  unfold State.storeRam; split <;> rfl

@[simp] theorem State.storeRam_qt (a : Addr) (v : Byte) (s : State) :
    (State.storeRam a v s).qt = s.qt := by
  unfold State.storeRam; split <;> rfl

@[simp] theorem State.storeRam_cpos (a : Addr) (v : Byte) (s : State) :
    (State.storeRam a v s).cpos = s.cpos := by
  unfold State.storeRam; split <;> rfl

@[simp] theorem State.storeRam_runstate (a : Addr) (v : Byte) (s : State) :
    (State.storeRam a v s).runstate = s.runstate := by
  unfold State.storeRam; split <;> rfl

@[simp] theorem State.storeRam_arch (a : Addr) (v : Byte) (s : State) :
    (State.storeRam a v s).arch = s.arch := by
  unfold State.storeRam; split <;> rfl

@[simp] theorem State.storeRam_speed (a : Addr) (v : Byte) (s : State) :
    (State.storeRam a v s).speed = s.speed := by
  unfold State.storeRam; split <;> rfl

@[simp] theorem State.storeRam_tickArmed (a : Addr) (v : Byte) (s : State) :
    (State.storeRam a v s).tickArmed = s.tickArmed := by
  unfold State.storeRam; split <;> rfl

@[simp] theorem State.storeRam_doorbellLatch (a : Addr) (v : Byte) (s : State) :
    (State.storeRam a v s).doorbellLatch = s.doorbellLatch := by
  unfold State.storeRam; split <;> rfl

@[simp] theorem State.storeRam_dbPending (a : Addr) (v : Byte) (s : State) :
    (State.storeRam a v s).dbPending = s.dbPending := by
  unfold State.storeRam; split <;> rfl

@[simp] theorem State.storeRam_ie (a : Addr) (v : Byte) (s : State) :
    (State.storeRam a v s).ie = s.ie := by
  unfold State.storeRam; split <;> rfl

@[simp] theorem State.storeRam_doorbellIe (a : Addr) (v : Byte) (s : State) :
    (State.storeRam a v s).doorbellIe = s.doorbellIe := by
  unfold State.storeRam; split <;> rfl

@[simp] theorem State.storeRam_initialised (a : Addr) (v : Byte) (s : State) :
    (State.storeRam a v s).initialised = s.initialised := by
  unfold State.storeRam; split <;> rfl

@[simp] theorem State.storeRam_fault (a : Addr) (v : Byte) (s : State) :
    (State.storeRam a v s).fault = s.fault := by
  unfold State.storeRam; split <;> rfl

@[simp] theorem State.storeRam_linkBusy (a : Addr) (v : Byte) (s : State) :
    (State.storeRam a v s).linkBusy = s.linkBusy := by
  unfold State.storeRam; split <;> rfl

@[simp] theorem State.storeRam_arbPhase (a : Addr) (v : Byte) (s : State) :
    (State.storeRam a v s).arbPhase = s.arbPhase := by
  unfold State.storeRam; split <;> rfl

@[simp] theorem State.storeRam_arbWasRunning (a : Addr) (v : Byte) (s : State) :
    (State.storeRam a v s).arbWasRunning = s.arbWasRunning := by
  unfold State.storeRam; split <;> rfl

@[simp] theorem State.storeRam_archsel (a : Addr) (v : Byte) (s : State) :
    (State.storeRam a v s).archsel = s.archsel := by
  unfold State.storeRam; split <;> rfl

@[simp] theorem State.storeRam_speedsel (a : Addr) (v : Byte) (s : State) :
    (State.storeRam a v s).speedsel = s.speedsel := by
  unfold State.storeRam; split <;> rfl

@[simp] theorem State.storeRam_resetLine (a : Addr) (v : Byte) (s : State) :
    (State.storeRam a v s).resetLine = s.resetLine := by
  unfold State.storeRam; split <;> rfl

@[simp] theorem State.storeRam_busen (a : Addr) (v : Byte) (s : State) :
    (State.storeRam a v s).busen = s.busen := by
  unfold State.storeRam; split <;> rfl

@[simp] theorem State.storeRam_int (a : Addr) (v : Byte) (s : State) :
    (State.storeRam a v s).int = s.int := by
  unfold State.storeRam; split <;> rfl

@[simp] theorem State.storeRam_ack (a : Addr) (v : Byte) (s : State) :
    (State.storeRam a v s).ack = s.ack := by
  unfold State.storeRam; split <;> rfl

@[simp] theorem State.storeRam_aoe (a : Addr) (v : Byte) (s : State) :
    (State.storeRam a v s).aoe = s.aoe := by
  unfold State.storeRam; split <;> rfl

@[simp] theorem State.storeRam_rwn (a : Addr) (v : Byte) (s : State) :
    (State.storeRam a v s).rwn = s.rwn := by
  unfold State.storeRam; split <;> rfl

@[simp] theorem State.storeRam_latch (a : Addr) (v : Byte) (s : State) :
    (State.storeRam a v s).latch = s.latch := by
  unfold State.storeRam; split <;> rfl

@[simp] theorem State.storeRam_sclk (a : Addr) (v : Byte) (s : State) :
    (State.storeRam a v s).sclk = s.sclk := by
  unfold State.storeRam; split <;> rfl

@[simp] theorem State.storeRam_sdo (a : Addr) (v : Byte) (s : State) :
    (State.storeRam a v s).sdo = s.sdo := by
  unfold State.storeRam; split <;> rfl

@[simp] theorem State.storeRam_sdi (a : Addr) (v : Byte) (s : State) :
    (State.storeRam a v s).sdi = s.sdi := by
  unfold State.storeRam; split <;> rfl

@[simp] theorem State.storeRam_req (a : Addr) (v : Byte) (s : State) :
    (State.storeRam a v s).req = s.req := by
  unfold State.storeRam; split <;> rfl

@[simp] theorem State.storeRam_dbell (a : Addr) (v : Byte) (s : State) :
    (State.storeRam a v s).dbell = s.dbell := by
  unfold State.storeRam; split <;> rfl

@[simp] theorem State.storeRam_srAddr (a : Addr) (v : Byte) (s : State) :
    (State.storeRam a v s).srAddr = s.srAddr := by
  unfold State.storeRam; split <;> rfl

@[simp] theorem State.storeRam_srData (a : Addr) (v : Byte) (s : State) :
    (State.storeRam a v s).srData = s.srData := by
  unfold State.storeRam; split <;> rfl

@[simp] theorem State.storeRam_setting0 (a : Addr) (v : Byte) (s : State) :
    (State.storeRam a v s).setting0 = s.setting0 := by
  unfold State.storeRam; split <;> rfl

@[simp] theorem State.storeRam_setting1 (a : Addr) (v : Byte) (s : State) :
    (State.storeRam a v s).setting1 = s.setting1 := by
  unfold State.storeRam; split <;> rfl

@[simp] theorem State.storeRam_hist (a : Addr) (v : Byte) (s : State) :
    (State.storeRam a v s).hist = s.hist := by
  unfold State.storeRam; split <;> rfl

@[simp] theorem State.storeRam_stream (a : Addr) (v : Byte) (s : State) :
    (State.storeRam a v s).stream = s.stream := by
  unfold State.storeRam; split <;> rfl

@[simp] theorem State.storeRam_refused (a : Addr) (v : Byte) (s : State) :
    (State.storeRam a v s).refused = s.refused := by
  unfold State.storeRam; split <;> rfl

@[simp] theorem State.storeRam_schedule (a : Addr) (v : Byte) (s : State) :
    (State.storeRam a v s).schedule = s.schedule := by
  unfold State.storeRam; split <;> rfl

@[simp] theorem State.storeRam_hostShare (a : Addr) (v : Byte) (s : State) :
    (State.storeRam a v s).hostShare = s.hostShare := by
  unfold State.storeRam; split <;> rfl

@[simp] theorem State.storeRam_endless (a : Addr) (v : Byte) (s : State) :
    (State.storeRam a v s).endless = s.endless := by
  unfold State.storeRam; split <;> rfl

@[simp] theorem State.storeRam_moveDraws (a : Addr) (v : Byte) (s : State) :
    (State.storeRam a v s).moveDraws = s.moveDraws := by
  unfold State.storeRam; split <;> rfl

@[simp] theorem State.storeRam_byteDraws (a : Addr) (v : Byte) (s : State) :
    (State.storeRam a v s).byteDraws = s.byteDraws := by
  unfold State.storeRam; split <;> rfl

@[simp] theorem State.storeRam_edgeDraws (a : Addr) (v : Byte) (s : State) :
    (State.storeRam a v s).edgeDraws = s.edgeDraws := by
  unfold State.storeRam; split <;> rfl

@[simp] theorem State.storeRam_frameOut (a : Addr) (v : Byte) (s : State) :
    (State.storeRam a v s).frameOut = s.frameOut := by
  unfold State.storeRam; split <;> rfl

@[simp] theorem State.storeRam_frameIn (a : Addr) (v : Byte) (s : State) :
    (State.storeRam a v s).frameIn = s.frameIn := by
  unfold State.storeRam; split <;> rfl

@[simp] theorem State.capture_cfg (a : Addr) (s : State) :
    (State.capture a s).cfg = s.cfg := by
  unfold State.capture; split <;> rfl

@[simp] theorem State.capture_opA (a : Addr) (s : State) :
    (State.capture a s).opA = s.opA := by
  unfold State.capture; split <;> rfl

@[simp] theorem State.capture_opD (a : Addr) (s : State) :
    (State.capture a s).opD = s.opD := by
  unfold State.capture; split <;> rfl

@[simp] theorem State.capture_opN (a : Addr) (s : State) :
    (State.capture a s).opN = s.opN := by
  unfold State.capture; split <;> rfl

@[simp] theorem State.capture_opS (a : Addr) (s : State) :
    (State.capture a s).opS = s.opS := by
  unfold State.capture; split <;> rfl

@[simp] theorem State.capture_opT (a : Addr) (s : State) :
    (State.capture a s).opT = s.opT := by
  unfold State.capture; split <;> rfl

@[simp] theorem State.capture_q (a : Addr) (s : State) :
    (State.capture a s).q = s.q := by
  unfold State.capture; split <;> rfl

@[simp] theorem State.capture_qbuf (a : Addr) (s : State) :
    (State.capture a s).qbuf = s.qbuf := by
  unfold State.capture; split <;> rfl

@[simp] theorem State.capture_qt (a : Addr) (s : State) :
    (State.capture a s).qt = s.qt := by
  unfold State.capture; split <;> rfl

@[simp] theorem State.capture_cpos (a : Addr) (s : State) :
    (State.capture a s).cpos = s.cpos := by
  unfold State.capture; split <;> rfl

@[simp] theorem State.capture_runstate (a : Addr) (s : State) :
    (State.capture a s).runstate = s.runstate := by
  unfold State.capture; split <;> rfl

@[simp] theorem State.capture_arch (a : Addr) (s : State) :
    (State.capture a s).arch = s.arch := by
  unfold State.capture; split <;> rfl

@[simp] theorem State.capture_speed (a : Addr) (s : State) :
    (State.capture a s).speed = s.speed := by
  unfold State.capture; split <;> rfl

@[simp] theorem State.capture_tickArmed (a : Addr) (s : State) :
    (State.capture a s).tickArmed = s.tickArmed := by
  unfold State.capture; split <;> rfl

@[simp] theorem State.capture_doorbellLatch (a : Addr) (s : State) :
    (State.capture a s).doorbellLatch = s.doorbellLatch := by
  unfold State.capture; split <;> rfl

@[simp] theorem State.capture_dbPending (a : Addr) (s : State) :
    (State.capture a s).dbPending = s.dbPending := by
  unfold State.capture; split <;> rfl

@[simp] theorem State.capture_ie (a : Addr) (s : State) :
    (State.capture a s).ie = s.ie := by
  unfold State.capture; split <;> rfl

@[simp] theorem State.capture_doorbellIe (a : Addr) (s : State) :
    (State.capture a s).doorbellIe = s.doorbellIe := by
  unfold State.capture; split <;> rfl

@[simp] theorem State.capture_initialised (a : Addr) (s : State) :
    (State.capture a s).initialised = s.initialised := by
  unfold State.capture; split <;> rfl

@[simp] theorem State.capture_fault (a : Addr) (s : State) :
    (State.capture a s).fault = s.fault := by
  unfold State.capture; split <;> rfl

@[simp] theorem State.capture_linkBusy (a : Addr) (s : State) :
    (State.capture a s).linkBusy = s.linkBusy := by
  unfold State.capture; split <;> rfl

@[simp] theorem State.capture_arbPhase (a : Addr) (s : State) :
    (State.capture a s).arbPhase = s.arbPhase := by
  unfold State.capture; split <;> rfl

@[simp] theorem State.capture_arbWasRunning (a : Addr) (s : State) :
    (State.capture a s).arbWasRunning = s.arbWasRunning := by
  unfold State.capture; split <;> rfl

@[simp] theorem State.capture_archsel (a : Addr) (s : State) :
    (State.capture a s).archsel = s.archsel := by
  unfold State.capture; split <;> rfl

@[simp] theorem State.capture_speedsel (a : Addr) (s : State) :
    (State.capture a s).speedsel = s.speedsel := by
  unfold State.capture; split <;> rfl

@[simp] theorem State.capture_resetLine (a : Addr) (s : State) :
    (State.capture a s).resetLine = s.resetLine := by
  unfold State.capture; split <;> rfl

@[simp] theorem State.capture_busen (a : Addr) (s : State) :
    (State.capture a s).busen = s.busen := by
  unfold State.capture; split <;> rfl

@[simp] theorem State.capture_int (a : Addr) (s : State) :
    (State.capture a s).int = s.int := by
  unfold State.capture; split <;> rfl

@[simp] theorem State.capture_ack (a : Addr) (s : State) :
    (State.capture a s).ack = s.ack := by
  unfold State.capture; split <;> rfl

@[simp] theorem State.capture_aoe (a : Addr) (s : State) :
    (State.capture a s).aoe = s.aoe := by
  unfold State.capture; split <;> rfl

@[simp] theorem State.capture_rwn (a : Addr) (s : State) :
    (State.capture a s).rwn = s.rwn := by
  unfold State.capture; split <;> rfl

@[simp] theorem State.capture_latch (a : Addr) (s : State) :
    (State.capture a s).latch = s.latch := by
  unfold State.capture; split <;> rfl

@[simp] theorem State.capture_sclk (a : Addr) (s : State) :
    (State.capture a s).sclk = s.sclk := by
  unfold State.capture; split <;> rfl

@[simp] theorem State.capture_sdo (a : Addr) (s : State) :
    (State.capture a s).sdo = s.sdo := by
  unfold State.capture; split <;> rfl

@[simp] theorem State.capture_sdi (a : Addr) (s : State) :
    (State.capture a s).sdi = s.sdi := by
  unfold State.capture; split <;> rfl

@[simp] theorem State.capture_req (a : Addr) (s : State) :
    (State.capture a s).req = s.req := by
  unfold State.capture; split <;> rfl

@[simp] theorem State.capture_dbell (a : Addr) (s : State) :
    (State.capture a s).dbell = s.dbell := by
  unfold State.capture; split <;> rfl

@[simp] theorem State.capture_srAddr (a : Addr) (s : State) :
    (State.capture a s).srAddr = s.srAddr := by
  unfold State.capture; split <;> rfl

@[simp] theorem State.capture_mem (a : Addr) (s : State) :
    (State.capture a s).mem = s.mem := by
  unfold State.capture; split <;> rfl

@[simp] theorem State.capture_setting0 (a : Addr) (s : State) :
    (State.capture a s).setting0 = s.setting0 := by
  unfold State.capture; split <;> rfl

@[simp] theorem State.capture_setting1 (a : Addr) (s : State) :
    (State.capture a s).setting1 = s.setting1 := by
  unfold State.capture; split <;> rfl

@[simp] theorem State.capture_hist (a : Addr) (s : State) :
    (State.capture a s).hist = s.hist := by
  unfold State.capture; split <;> rfl

@[simp] theorem State.capture_stream (a : Addr) (s : State) :
    (State.capture a s).stream = s.stream := by
  unfold State.capture; split <;> rfl

@[simp] theorem State.capture_refused (a : Addr) (s : State) :
    (State.capture a s).refused = s.refused := by
  unfold State.capture; split <;> rfl

@[simp] theorem State.capture_schedule (a : Addr) (s : State) :
    (State.capture a s).schedule = s.schedule := by
  unfold State.capture; split <;> rfl

@[simp] theorem State.capture_hostShare (a : Addr) (s : State) :
    (State.capture a s).hostShare = s.hostShare := by
  unfold State.capture; split <;> rfl

@[simp] theorem State.capture_endless (a : Addr) (s : State) :
    (State.capture a s).endless = s.endless := by
  unfold State.capture; split <;> rfl

@[simp] theorem State.capture_moveDraws (a : Addr) (s : State) :
    (State.capture a s).moveDraws = s.moveDraws := by
  unfold State.capture; split <;> rfl

@[simp] theorem State.capture_edgeDraws (a : Addr) (s : State) :
    (State.capture a s).edgeDraws = s.edgeDraws := by
  unfold State.capture; split <;> rfl

@[simp] theorem State.capture_frameOut (a : Addr) (s : State) :
    (State.capture a s).frameOut = s.frameOut := by
  unfold State.capture; split <;> rfl

@[simp] theorem State.capture_frameIn (a : Addr) (s : State) :
    (State.capture a s).frameIn = s.frameIn := by
  unfold State.capture; split <;> rfl

@[simp] theorem State.shiftIn_cfg (s : State) :
    (State.shiftIn s).cfg = s.cfg := rfl

@[simp] theorem State.shiftIn_opA (s : State) :
    (State.shiftIn s).opA = s.opA := rfl

@[simp] theorem State.shiftIn_opD (s : State) :
    (State.shiftIn s).opD = s.opD := rfl

@[simp] theorem State.shiftIn_opN (s : State) :
    (State.shiftIn s).opN = s.opN := rfl

@[simp] theorem State.shiftIn_opS (s : State) :
    (State.shiftIn s).opS = s.opS := rfl

@[simp] theorem State.shiftIn_opT (s : State) :
    (State.shiftIn s).opT = s.opT := rfl

@[simp] theorem State.shiftIn_q (s : State) :
    (State.shiftIn s).q = s.q := rfl

@[simp] theorem State.shiftIn_qbuf (s : State) :
    (State.shiftIn s).qbuf = s.qbuf := rfl

@[simp] theorem State.shiftIn_qt (s : State) :
    (State.shiftIn s).qt = s.qt := rfl

@[simp] theorem State.shiftIn_cpos (s : State) :
    (State.shiftIn s).cpos = s.cpos := rfl

@[simp] theorem State.shiftIn_runstate (s : State) :
    (State.shiftIn s).runstate = s.runstate := rfl

@[simp] theorem State.shiftIn_arch (s : State) :
    (State.shiftIn s).arch = s.arch := rfl

@[simp] theorem State.shiftIn_speed (s : State) :
    (State.shiftIn s).speed = s.speed := rfl

@[simp] theorem State.shiftIn_tickArmed (s : State) :
    (State.shiftIn s).tickArmed = s.tickArmed := rfl

@[simp] theorem State.shiftIn_doorbellLatch (s : State) :
    (State.shiftIn s).doorbellLatch = s.doorbellLatch := rfl

@[simp] theorem State.shiftIn_dbPending (s : State) :
    (State.shiftIn s).dbPending = s.dbPending := rfl

@[simp] theorem State.shiftIn_ie (s : State) :
    (State.shiftIn s).ie = s.ie := rfl

@[simp] theorem State.shiftIn_doorbellIe (s : State) :
    (State.shiftIn s).doorbellIe = s.doorbellIe := rfl

@[simp] theorem State.shiftIn_initialised (s : State) :
    (State.shiftIn s).initialised = s.initialised := rfl

@[simp] theorem State.shiftIn_fault (s : State) :
    (State.shiftIn s).fault = s.fault := rfl

@[simp] theorem State.shiftIn_linkBusy (s : State) :
    (State.shiftIn s).linkBusy = s.linkBusy := rfl

@[simp] theorem State.shiftIn_arbPhase (s : State) :
    (State.shiftIn s).arbPhase = s.arbPhase := rfl

@[simp] theorem State.shiftIn_arbWasRunning (s : State) :
    (State.shiftIn s).arbWasRunning = s.arbWasRunning := rfl

@[simp] theorem State.shiftIn_archsel (s : State) :
    (State.shiftIn s).archsel = s.archsel := rfl

@[simp] theorem State.shiftIn_speedsel (s : State) :
    (State.shiftIn s).speedsel = s.speedsel := rfl

@[simp] theorem State.shiftIn_resetLine (s : State) :
    (State.shiftIn s).resetLine = s.resetLine := rfl

@[simp] theorem State.shiftIn_busen (s : State) :
    (State.shiftIn s).busen = s.busen := rfl

@[simp] theorem State.shiftIn_int (s : State) :
    (State.shiftIn s).int = s.int := rfl

@[simp] theorem State.shiftIn_ack (s : State) :
    (State.shiftIn s).ack = s.ack := rfl

@[simp] theorem State.shiftIn_aoe (s : State) :
    (State.shiftIn s).aoe = s.aoe := rfl

@[simp] theorem State.shiftIn_rwn (s : State) :
    (State.shiftIn s).rwn = s.rwn := rfl

@[simp] theorem State.shiftIn_latch (s : State) :
    (State.shiftIn s).latch = s.latch := rfl

@[simp] theorem State.shiftIn_sdo (s : State) :
    (State.shiftIn s).sdo = s.sdo := rfl

@[simp] theorem State.shiftIn_req (s : State) :
    (State.shiftIn s).req = s.req := rfl

@[simp] theorem State.shiftIn_dbell (s : State) :
    (State.shiftIn s).dbell = s.dbell := rfl

@[simp] theorem State.shiftIn_srAddr (s : State) :
    (State.shiftIn s).srAddr = s.srAddr := rfl

@[simp] theorem State.shiftIn_srData (s : State) :
    (State.shiftIn s).srData = s.srData := rfl

@[simp] theorem State.shiftIn_mem (s : State) :
    (State.shiftIn s).mem = s.mem := rfl

@[simp] theorem State.shiftIn_setting0 (s : State) :
    (State.shiftIn s).setting0 = s.setting0 := rfl

@[simp] theorem State.shiftIn_setting1 (s : State) :
    (State.shiftIn s).setting1 = s.setting1 := rfl

@[simp] theorem State.shiftIn_hist (s : State) :
    (State.shiftIn s).hist = s.hist := rfl

@[simp] theorem State.shiftIn_stream (s : State) :
    (State.shiftIn s).stream = s.stream := rfl

@[simp] theorem State.shiftIn_refused (s : State) :
    (State.shiftIn s).refused = s.refused := rfl

@[simp] theorem State.shiftIn_schedule (s : State) :
    (State.shiftIn s).schedule = s.schedule := rfl

@[simp] theorem State.shiftIn_hostShare (s : State) :
    (State.shiftIn s).hostShare = s.hostShare := rfl

@[simp] theorem State.shiftIn_endless (s : State) :
    (State.shiftIn s).endless = s.endless := rfl

@[simp] theorem State.shiftIn_moveDraws (s : State) :
    (State.shiftIn s).moveDraws = s.moveDraws := rfl

@[simp] theorem State.shiftIn_byteDraws (s : State) :
    (State.shiftIn s).byteDraws = s.byteDraws := rfl

@[simp] theorem State.shiftIn_edgeDraws (s : State) :
    (State.shiftIn s).edgeDraws = s.edgeDraws := rfl

@[simp] theorem State.shiftIn_frameOut (s : State) :
    (State.shiftIn s).frameOut = s.frameOut := rfl

end Sys2Proof.Machine
end

