-- ==== Sys2Proof/Laws/Others.lean ====
section
/-! SUPPORT. What the other agents' steps leave alone: every field that only the host writes
(60_exceptions R352 to R355, R370, R372). -/

namespace Sys2Proof.Machine

@[simp] theorem State.useEdgeDraw_cfg (s : State) :
    (State.useEdgeDraw s).cfg = s.cfg := rfl

@[simp] theorem State.useEdgeDraw_opA (s : State) :
    (State.useEdgeDraw s).opA = s.opA := rfl

@[simp] theorem State.useEdgeDraw_opD (s : State) :
    (State.useEdgeDraw s).opD = s.opD := rfl

@[simp] theorem State.useEdgeDraw_opN (s : State) :
    (State.useEdgeDraw s).opN = s.opN := rfl

@[simp] theorem State.useEdgeDraw_opS (s : State) :
    (State.useEdgeDraw s).opS = s.opS := rfl

@[simp] theorem State.useEdgeDraw_opT (s : State) :
    (State.useEdgeDraw s).opT = s.opT := rfl

@[simp] theorem State.useEdgeDraw_q (s : State) :
    (State.useEdgeDraw s).q = s.q := rfl

@[simp] theorem State.useEdgeDraw_qbuf (s : State) :
    (State.useEdgeDraw s).qbuf = s.qbuf := rfl

@[simp] theorem State.useEdgeDraw_qt (s : State) :
    (State.useEdgeDraw s).qt = s.qt := rfl

@[simp] theorem State.useEdgeDraw_cpos (s : State) :
    (State.useEdgeDraw s).cpos = s.cpos := rfl

@[simp] theorem State.useEdgeDraw_runstate (s : State) :
    (State.useEdgeDraw s).runstate = s.runstate := rfl

@[simp] theorem State.useEdgeDraw_arch (s : State) :
    (State.useEdgeDraw s).arch = s.arch := rfl

@[simp] theorem State.useEdgeDraw_speed (s : State) :
    (State.useEdgeDraw s).speed = s.speed := rfl

@[simp] theorem State.useEdgeDraw_tickArmed (s : State) :
    (State.useEdgeDraw s).tickArmed = s.tickArmed := rfl

@[simp] theorem State.useEdgeDraw_doorbellLatch (s : State) :
    (State.useEdgeDraw s).doorbellLatch = s.doorbellLatch := rfl

@[simp] theorem State.useEdgeDraw_dbPending (s : State) :
    (State.useEdgeDraw s).dbPending = s.dbPending := rfl

@[simp] theorem State.useEdgeDraw_ie (s : State) :
    (State.useEdgeDraw s).ie = s.ie := rfl

@[simp] theorem State.useEdgeDraw_doorbellIe (s : State) :
    (State.useEdgeDraw s).doorbellIe = s.doorbellIe := rfl

@[simp] theorem State.useEdgeDraw_initialised (s : State) :
    (State.useEdgeDraw s).initialised = s.initialised := rfl

@[simp] theorem State.useEdgeDraw_fault (s : State) :
    (State.useEdgeDraw s).fault = s.fault := rfl

@[simp] theorem State.useEdgeDraw_linkBusy (s : State) :
    (State.useEdgeDraw s).linkBusy = s.linkBusy := rfl

@[simp] theorem State.useEdgeDraw_arbPhase (s : State) :
    (State.useEdgeDraw s).arbPhase = s.arbPhase := rfl

@[simp] theorem State.useEdgeDraw_arbWasRunning (s : State) :
    (State.useEdgeDraw s).arbWasRunning = s.arbWasRunning := rfl

@[simp] theorem State.useEdgeDraw_archsel (s : State) :
    (State.useEdgeDraw s).archsel = s.archsel := rfl

@[simp] theorem State.useEdgeDraw_speedsel (s : State) :
    (State.useEdgeDraw s).speedsel = s.speedsel := rfl

@[simp] theorem State.useEdgeDraw_resetLine (s : State) :
    (State.useEdgeDraw s).resetLine = s.resetLine := rfl

@[simp] theorem State.useEdgeDraw_busen (s : State) :
    (State.useEdgeDraw s).busen = s.busen := rfl

@[simp] theorem State.useEdgeDraw_int (s : State) :
    (State.useEdgeDraw s).int = s.int := rfl

@[simp] theorem State.useEdgeDraw_ack (s : State) :
    (State.useEdgeDraw s).ack = s.ack := rfl

@[simp] theorem State.useEdgeDraw_aoe (s : State) :
    (State.useEdgeDraw s).aoe = s.aoe := rfl

@[simp] theorem State.useEdgeDraw_rwn (s : State) :
    (State.useEdgeDraw s).rwn = s.rwn := rfl

@[simp] theorem State.useEdgeDraw_latch (s : State) :
    (State.useEdgeDraw s).latch = s.latch := rfl

@[simp] theorem State.useEdgeDraw_sclk (s : State) :
    (State.useEdgeDraw s).sclk = s.sclk := rfl

@[simp] theorem State.useEdgeDraw_sdo (s : State) :
    (State.useEdgeDraw s).sdo = s.sdo := rfl

@[simp] theorem State.useEdgeDraw_sdi (s : State) :
    (State.useEdgeDraw s).sdi = s.sdi := rfl

@[simp] theorem State.useEdgeDraw_req (s : State) :
    (State.useEdgeDraw s).req = s.req := rfl

@[simp] theorem State.useEdgeDraw_dbell (s : State) :
    (State.useEdgeDraw s).dbell = s.dbell := rfl

@[simp] theorem State.useEdgeDraw_srAddr (s : State) :
    (State.useEdgeDraw s).srAddr = s.srAddr := rfl

@[simp] theorem State.useEdgeDraw_srData (s : State) :
    (State.useEdgeDraw s).srData = s.srData := rfl

@[simp] theorem State.useEdgeDraw_mem (s : State) :
    (State.useEdgeDraw s).mem = s.mem := rfl

@[simp] theorem State.useEdgeDraw_setting0 (s : State) :
    (State.useEdgeDraw s).setting0 = s.setting0 := rfl

@[simp] theorem State.useEdgeDraw_setting1 (s : State) :
    (State.useEdgeDraw s).setting1 = s.setting1 := rfl

@[simp] theorem State.useEdgeDraw_hist (s : State) :
    (State.useEdgeDraw s).hist = s.hist := rfl

@[simp] theorem State.useEdgeDraw_stream (s : State) :
    (State.useEdgeDraw s).stream = s.stream := rfl

@[simp] theorem State.useEdgeDraw_refused (s : State) :
    (State.useEdgeDraw s).refused = s.refused := rfl

@[simp] theorem State.useEdgeDraw_schedule (s : State) :
    (State.useEdgeDraw s).schedule = s.schedule := rfl

@[simp] theorem State.useEdgeDraw_hostShare (s : State) :
    (State.useEdgeDraw s).hostShare = s.hostShare := rfl

@[simp] theorem State.useEdgeDraw_endless (s : State) :
    (State.useEdgeDraw s).endless = s.endless := rfl

@[simp] theorem State.useEdgeDraw_moveDraws (s : State) :
    (State.useEdgeDraw s).moveDraws = s.moveDraws := rfl

@[simp] theorem State.useEdgeDraw_byteDraws (s : State) :
    (State.useEdgeDraw s).byteDraws = s.byteDraws := rfl

@[simp] theorem State.useEdgeDraw_frameOut (s : State) :
    (State.useEdgeDraw s).frameOut = s.frameOut := rfl

@[simp] theorem State.useEdgeDraw_frameIn (s : State) :
    (State.useEdgeDraw s).frameIn = s.frameIn := rfl

@[simp] theorem State.useMoveDraw_cfg (s : State) :
    (State.useMoveDraw s).cfg = s.cfg := rfl

@[simp] theorem State.useMoveDraw_opA (s : State) :
    (State.useMoveDraw s).opA = s.opA := rfl

@[simp] theorem State.useMoveDraw_opD (s : State) :
    (State.useMoveDraw s).opD = s.opD := rfl

@[simp] theorem State.useMoveDraw_opN (s : State) :
    (State.useMoveDraw s).opN = s.opN := rfl

@[simp] theorem State.useMoveDraw_opS (s : State) :
    (State.useMoveDraw s).opS = s.opS := rfl

@[simp] theorem State.useMoveDraw_opT (s : State) :
    (State.useMoveDraw s).opT = s.opT := rfl

@[simp] theorem State.useMoveDraw_q (s : State) :
    (State.useMoveDraw s).q = s.q := rfl

@[simp] theorem State.useMoveDraw_qbuf (s : State) :
    (State.useMoveDraw s).qbuf = s.qbuf := rfl

@[simp] theorem State.useMoveDraw_qt (s : State) :
    (State.useMoveDraw s).qt = s.qt := rfl

@[simp] theorem State.useMoveDraw_cpos (s : State) :
    (State.useMoveDraw s).cpos = s.cpos := rfl

@[simp] theorem State.useMoveDraw_runstate (s : State) :
    (State.useMoveDraw s).runstate = s.runstate := rfl

@[simp] theorem State.useMoveDraw_arch (s : State) :
    (State.useMoveDraw s).arch = s.arch := rfl

@[simp] theorem State.useMoveDraw_speed (s : State) :
    (State.useMoveDraw s).speed = s.speed := rfl

@[simp] theorem State.useMoveDraw_tickArmed (s : State) :
    (State.useMoveDraw s).tickArmed = s.tickArmed := rfl

@[simp] theorem State.useMoveDraw_doorbellLatch (s : State) :
    (State.useMoveDraw s).doorbellLatch = s.doorbellLatch := rfl

@[simp] theorem State.useMoveDraw_dbPending (s : State) :
    (State.useMoveDraw s).dbPending = s.dbPending := rfl

@[simp] theorem State.useMoveDraw_ie (s : State) :
    (State.useMoveDraw s).ie = s.ie := rfl

@[simp] theorem State.useMoveDraw_doorbellIe (s : State) :
    (State.useMoveDraw s).doorbellIe = s.doorbellIe := rfl

@[simp] theorem State.useMoveDraw_initialised (s : State) :
    (State.useMoveDraw s).initialised = s.initialised := rfl

@[simp] theorem State.useMoveDraw_fault (s : State) :
    (State.useMoveDraw s).fault = s.fault := rfl

@[simp] theorem State.useMoveDraw_linkBusy (s : State) :
    (State.useMoveDraw s).linkBusy = s.linkBusy := rfl

@[simp] theorem State.useMoveDraw_arbPhase (s : State) :
    (State.useMoveDraw s).arbPhase = s.arbPhase := rfl

@[simp] theorem State.useMoveDraw_arbWasRunning (s : State) :
    (State.useMoveDraw s).arbWasRunning = s.arbWasRunning := rfl

@[simp] theorem State.useMoveDraw_archsel (s : State) :
    (State.useMoveDraw s).archsel = s.archsel := rfl

@[simp] theorem State.useMoveDraw_speedsel (s : State) :
    (State.useMoveDraw s).speedsel = s.speedsel := rfl

@[simp] theorem State.useMoveDraw_resetLine (s : State) :
    (State.useMoveDraw s).resetLine = s.resetLine := rfl

@[simp] theorem State.useMoveDraw_busen (s : State) :
    (State.useMoveDraw s).busen = s.busen := rfl

@[simp] theorem State.useMoveDraw_int (s : State) :
    (State.useMoveDraw s).int = s.int := rfl

@[simp] theorem State.useMoveDraw_ack (s : State) :
    (State.useMoveDraw s).ack = s.ack := rfl

@[simp] theorem State.useMoveDraw_aoe (s : State) :
    (State.useMoveDraw s).aoe = s.aoe := rfl

@[simp] theorem State.useMoveDraw_rwn (s : State) :
    (State.useMoveDraw s).rwn = s.rwn := rfl

@[simp] theorem State.useMoveDraw_latch (s : State) :
    (State.useMoveDraw s).latch = s.latch := rfl

@[simp] theorem State.useMoveDraw_sclk (s : State) :
    (State.useMoveDraw s).sclk = s.sclk := rfl

@[simp] theorem State.useMoveDraw_sdo (s : State) :
    (State.useMoveDraw s).sdo = s.sdo := rfl

@[simp] theorem State.useMoveDraw_sdi (s : State) :
    (State.useMoveDraw s).sdi = s.sdi := rfl

@[simp] theorem State.useMoveDraw_req (s : State) :
    (State.useMoveDraw s).req = s.req := rfl

@[simp] theorem State.useMoveDraw_dbell (s : State) :
    (State.useMoveDraw s).dbell = s.dbell := rfl

@[simp] theorem State.useMoveDraw_srAddr (s : State) :
    (State.useMoveDraw s).srAddr = s.srAddr := rfl

@[simp] theorem State.useMoveDraw_srData (s : State) :
    (State.useMoveDraw s).srData = s.srData := rfl

@[simp] theorem State.useMoveDraw_mem (s : State) :
    (State.useMoveDraw s).mem = s.mem := rfl

@[simp] theorem State.useMoveDraw_setting0 (s : State) :
    (State.useMoveDraw s).setting0 = s.setting0 := rfl

@[simp] theorem State.useMoveDraw_setting1 (s : State) :
    (State.useMoveDraw s).setting1 = s.setting1 := rfl

@[simp] theorem State.useMoveDraw_hist (s : State) :
    (State.useMoveDraw s).hist = s.hist := rfl

@[simp] theorem State.useMoveDraw_stream (s : State) :
    (State.useMoveDraw s).stream = s.stream := rfl

@[simp] theorem State.useMoveDraw_refused (s : State) :
    (State.useMoveDraw s).refused = s.refused := rfl

@[simp] theorem State.useMoveDraw_schedule (s : State) :
    (State.useMoveDraw s).schedule = s.schedule := rfl

@[simp] theorem State.useMoveDraw_hostShare (s : State) :
    (State.useMoveDraw s).hostShare = s.hostShare := rfl

@[simp] theorem State.useMoveDraw_endless (s : State) :
    (State.useMoveDraw s).endless = s.endless := rfl

@[simp] theorem State.useMoveDraw_byteDraws (s : State) :
    (State.useMoveDraw s).byteDraws = s.byteDraws := rfl

@[simp] theorem State.useMoveDraw_edgeDraws (s : State) :
    (State.useMoveDraw s).edgeDraws = s.edgeDraws := rfl

@[simp] theorem State.useMoveDraw_frameOut (s : State) :
    (State.useMoveDraw s).frameOut = s.frameOut := rfl

@[simp] theorem State.useMoveDraw_frameIn (s : State) :
    (State.useMoveDraw s).frameIn = s.frameIn := rfl

@[simp] theorem State.useMoveDraw_moveDraws (s : State) :
    s.useMoveDraw.moveDraws = s.moveDraws + 1 := rfl

@[simp] theorem State.maskedEdge_cfg (s : State) :
    (State.maskedEdge s).cfg = s.cfg := by
  unfold State.maskedEdge; split <;> (try split) <;> rfl

@[simp] theorem State.maskedEdge_opA (s : State) :
    (State.maskedEdge s).opA = s.opA := by
  unfold State.maskedEdge; split <;> (try split) <;> rfl

@[simp] theorem State.maskedEdge_opD (s : State) :
    (State.maskedEdge s).opD = s.opD := by
  unfold State.maskedEdge; split <;> (try split) <;> rfl

@[simp] theorem State.maskedEdge_opN (s : State) :
    (State.maskedEdge s).opN = s.opN := by
  unfold State.maskedEdge; split <;> (try split) <;> rfl

@[simp] theorem State.maskedEdge_opS (s : State) :
    (State.maskedEdge s).opS = s.opS := by
  unfold State.maskedEdge; split <;> (try split) <;> rfl

@[simp] theorem State.maskedEdge_opT (s : State) :
    (State.maskedEdge s).opT = s.opT := by
  unfold State.maskedEdge; split <;> (try split) <;> rfl

@[simp] theorem State.maskedEdge_q (s : State) :
    (State.maskedEdge s).q = s.q := by
  unfold State.maskedEdge; split <;> (try split) <;> rfl

@[simp] theorem State.maskedEdge_qbuf (s : State) :
    (State.maskedEdge s).qbuf = s.qbuf := by
  unfold State.maskedEdge; split <;> (try split) <;> rfl

@[simp] theorem State.maskedEdge_qt (s : State) :
    (State.maskedEdge s).qt = s.qt := by
  unfold State.maskedEdge; split <;> (try split) <;> rfl

@[simp] theorem State.maskedEdge_cpos (s : State) :
    (State.maskedEdge s).cpos = s.cpos := by
  unfold State.maskedEdge; split <;> (try split) <;> rfl

@[simp] theorem State.maskedEdge_runstate (s : State) :
    (State.maskedEdge s).runstate = s.runstate := by
  unfold State.maskedEdge; split <;> (try split) <;> rfl

@[simp] theorem State.maskedEdge_arch (s : State) :
    (State.maskedEdge s).arch = s.arch := by
  unfold State.maskedEdge; split <;> (try split) <;> rfl

@[simp] theorem State.maskedEdge_speed (s : State) :
    (State.maskedEdge s).speed = s.speed := by
  unfold State.maskedEdge; split <;> (try split) <;> rfl

@[simp] theorem State.maskedEdge_tickArmed (s : State) :
    (State.maskedEdge s).tickArmed = s.tickArmed := by
  unfold State.maskedEdge; split <;> (try split) <;> rfl

@[simp] theorem State.maskedEdge_doorbellLatch (s : State) :
    (State.maskedEdge s).doorbellLatch = s.doorbellLatch := by
  unfold State.maskedEdge; split <;> (try split) <;> rfl

@[simp] theorem State.maskedEdge_ie (s : State) :
    (State.maskedEdge s).ie = s.ie := by
  unfold State.maskedEdge; split <;> (try split) <;> rfl

@[simp] theorem State.maskedEdge_doorbellIe (s : State) :
    (State.maskedEdge s).doorbellIe = s.doorbellIe := by
  unfold State.maskedEdge; split <;> (try split) <;> rfl

@[simp] theorem State.maskedEdge_initialised (s : State) :
    (State.maskedEdge s).initialised = s.initialised := by
  unfold State.maskedEdge; split <;> (try split) <;> rfl

@[simp] theorem State.maskedEdge_fault (s : State) :
    (State.maskedEdge s).fault = s.fault := by
  unfold State.maskedEdge; split <;> (try split) <;> rfl

@[simp] theorem State.maskedEdge_linkBusy (s : State) :
    (State.maskedEdge s).linkBusy = s.linkBusy := by
  unfold State.maskedEdge; split <;> (try split) <;> rfl

@[simp] theorem State.maskedEdge_arbPhase (s : State) :
    (State.maskedEdge s).arbPhase = s.arbPhase := by
  unfold State.maskedEdge; split <;> (try split) <;> rfl

@[simp] theorem State.maskedEdge_arbWasRunning (s : State) :
    (State.maskedEdge s).arbWasRunning = s.arbWasRunning := by
  unfold State.maskedEdge; split <;> (try split) <;> rfl

@[simp] theorem State.maskedEdge_archsel (s : State) :
    (State.maskedEdge s).archsel = s.archsel := by
  unfold State.maskedEdge; split <;> (try split) <;> rfl

@[simp] theorem State.maskedEdge_speedsel (s : State) :
    (State.maskedEdge s).speedsel = s.speedsel := by
  unfold State.maskedEdge; split <;> (try split) <;> rfl

@[simp] theorem State.maskedEdge_resetLine (s : State) :
    (State.maskedEdge s).resetLine = s.resetLine := by
  unfold State.maskedEdge; split <;> (try split) <;> rfl

@[simp] theorem State.maskedEdge_busen (s : State) :
    (State.maskedEdge s).busen = s.busen := by
  unfold State.maskedEdge; split <;> (try split) <;> rfl

@[simp] theorem State.maskedEdge_int (s : State) :
    (State.maskedEdge s).int = s.int := by
  unfold State.maskedEdge; split <;> (try split) <;> rfl

@[simp] theorem State.maskedEdge_ack (s : State) :
    (State.maskedEdge s).ack = s.ack := by
  unfold State.maskedEdge; split <;> (try split) <;> rfl

@[simp] theorem State.maskedEdge_aoe (s : State) :
    (State.maskedEdge s).aoe = s.aoe := by
  unfold State.maskedEdge; split <;> (try split) <;> rfl

@[simp] theorem State.maskedEdge_rwn (s : State) :
    (State.maskedEdge s).rwn = s.rwn := by
  unfold State.maskedEdge; split <;> (try split) <;> rfl

@[simp] theorem State.maskedEdge_latch (s : State) :
    (State.maskedEdge s).latch = s.latch := by
  unfold State.maskedEdge; split <;> (try split) <;> rfl

@[simp] theorem State.maskedEdge_sclk (s : State) :
    (State.maskedEdge s).sclk = s.sclk := by
  unfold State.maskedEdge; split <;> (try split) <;> rfl

@[simp] theorem State.maskedEdge_sdo (s : State) :
    (State.maskedEdge s).sdo = s.sdo := by
  unfold State.maskedEdge; split <;> (try split) <;> rfl

@[simp] theorem State.maskedEdge_sdi (s : State) :
    (State.maskedEdge s).sdi = s.sdi := by
  unfold State.maskedEdge; split <;> (try split) <;> rfl

@[simp] theorem State.maskedEdge_req (s : State) :
    (State.maskedEdge s).req = s.req := by
  unfold State.maskedEdge; split <;> (try split) <;> rfl

@[simp] theorem State.maskedEdge_dbell (s : State) :
    (State.maskedEdge s).dbell = s.dbell := by
  unfold State.maskedEdge; split <;> (try split) <;> rfl

@[simp] theorem State.maskedEdge_srAddr (s : State) :
    (State.maskedEdge s).srAddr = s.srAddr := by
  unfold State.maskedEdge; split <;> (try split) <;> rfl

@[simp] theorem State.maskedEdge_srData (s : State) :
    (State.maskedEdge s).srData = s.srData := by
  unfold State.maskedEdge; split <;> (try split) <;> rfl

@[simp] theorem State.maskedEdge_mem (s : State) :
    (State.maskedEdge s).mem = s.mem := by
  unfold State.maskedEdge; split <;> (try split) <;> rfl

@[simp] theorem State.maskedEdge_setting0 (s : State) :
    (State.maskedEdge s).setting0 = s.setting0 := by
  unfold State.maskedEdge; split <;> (try split) <;> rfl

@[simp] theorem State.maskedEdge_setting1 (s : State) :
    (State.maskedEdge s).setting1 = s.setting1 := by
  unfold State.maskedEdge; split <;> (try split) <;> rfl

@[simp] theorem State.maskedEdge_hist (s : State) :
    (State.maskedEdge s).hist = s.hist := by
  unfold State.maskedEdge; split <;> (try split) <;> rfl

@[simp] theorem State.maskedEdge_stream (s : State) :
    (State.maskedEdge s).stream = s.stream := by
  unfold State.maskedEdge; split <;> (try split) <;> rfl

@[simp] theorem State.maskedEdge_refused (s : State) :
    (State.maskedEdge s).refused = s.refused := by
  unfold State.maskedEdge; split <;> (try split) <;> rfl

@[simp] theorem State.maskedEdge_schedule (s : State) :
    (State.maskedEdge s).schedule = s.schedule := by
  unfold State.maskedEdge; split <;> (try split) <;> rfl

@[simp] theorem State.maskedEdge_hostShare (s : State) :
    (State.maskedEdge s).hostShare = s.hostShare := by
  unfold State.maskedEdge; split <;> (try split) <;> rfl

@[simp] theorem State.maskedEdge_endless (s : State) :
    (State.maskedEdge s).endless = s.endless := by
  unfold State.maskedEdge; split <;> (try split) <;> rfl

@[simp] theorem State.maskedEdge_moveDraws (s : State) :
    (State.maskedEdge s).moveDraws = s.moveDraws := by
  unfold State.maskedEdge; split <;> (try split) <;> rfl

@[simp] theorem State.maskedEdge_byteDraws (s : State) :
    (State.maskedEdge s).byteDraws = s.byteDraws := by
  unfold State.maskedEdge; split <;> (try split) <;> rfl

@[simp] theorem State.maskedEdge_frameOut (s : State) :
    (State.maskedEdge s).frameOut = s.frameOut := by
  unfold State.maskedEdge; split <;> (try split) <;> rfl

@[simp] theorem State.maskedEdge_frameIn (s : State) :
    (State.maskedEdge s).frameIn = s.frameIn := by
  unfold State.maskedEdge; split <;> (try split) <;> rfl

@[simp] theorem State.tickHandler_cfg (s : State) :
    (State.tickHandler s).cfg = s.cfg := by
  simp [State.tickHandler]

@[simp] theorem State.tickHandler_opA (s : State) :
    (State.tickHandler s).opA = s.opA := by
  simp [State.tickHandler]

@[simp] theorem State.tickHandler_opD (s : State) :
    (State.tickHandler s).opD = s.opD := by
  simp [State.tickHandler]

@[simp] theorem State.tickHandler_opN (s : State) :
    (State.tickHandler s).opN = s.opN := by
  simp [State.tickHandler]

@[simp] theorem State.tickHandler_opS (s : State) :
    (State.tickHandler s).opS = s.opS := by
  simp [State.tickHandler]

@[simp] theorem State.tickHandler_opT (s : State) :
    (State.tickHandler s).opT = s.opT := by
  simp [State.tickHandler]

@[simp] theorem State.tickHandler_q (s : State) :
    (State.tickHandler s).q = s.q := by
  simp [State.tickHandler]

@[simp] theorem State.tickHandler_qbuf (s : State) :
    (State.tickHandler s).qbuf = s.qbuf := by
  simp [State.tickHandler]

@[simp] theorem State.tickHandler_qt (s : State) :
    (State.tickHandler s).qt = s.qt := by
  simp [State.tickHandler]

@[simp] theorem State.tickHandler_cpos (s : State) :
    (State.tickHandler s).cpos = s.cpos := by
  simp [State.tickHandler]

@[simp] theorem State.tickHandler_runstate (s : State) :
    (State.tickHandler s).runstate = s.runstate := by
  simp [State.tickHandler]

@[simp] theorem State.tickHandler_arch (s : State) :
    (State.tickHandler s).arch = s.arch := by
  simp [State.tickHandler]

@[simp] theorem State.tickHandler_speed (s : State) :
    (State.tickHandler s).speed = s.speed := by
  simp [State.tickHandler]

@[simp] theorem State.tickHandler_tickArmed (s : State) :
    (State.tickHandler s).tickArmed = s.tickArmed := by
  simp [State.tickHandler]

@[simp] theorem State.tickHandler_doorbellLatch (s : State) :
    (State.tickHandler s).doorbellLatch = s.doorbellLatch := by
  simp [State.tickHandler]

@[simp] theorem State.tickHandler_dbPending (s : State) :
    (State.tickHandler s).dbPending = s.dbPending := by
  simp [State.tickHandler]

@[simp] theorem State.tickHandler_ie (s : State) :
    (State.tickHandler s).ie = s.ie := by
  simp [State.tickHandler]

@[simp] theorem State.tickHandler_doorbellIe (s : State) :
    (State.tickHandler s).doorbellIe = s.doorbellIe := by
  simp [State.tickHandler]

@[simp] theorem State.tickHandler_initialised (s : State) :
    (State.tickHandler s).initialised = s.initialised := by
  simp [State.tickHandler]

@[simp] theorem State.tickHandler_fault (s : State) :
    (State.tickHandler s).fault = s.fault := by
  simp [State.tickHandler]

@[simp] theorem State.tickHandler_linkBusy (s : State) :
    (State.tickHandler s).linkBusy = s.linkBusy := by
  simp [State.tickHandler]

@[simp] theorem State.tickHandler_arbPhase (s : State) :
    (State.tickHandler s).arbPhase = s.arbPhase := by
  simp [State.tickHandler]

@[simp] theorem State.tickHandler_arbWasRunning (s : State) :
    (State.tickHandler s).arbWasRunning = s.arbWasRunning := by
  simp [State.tickHandler]

@[simp] theorem State.tickHandler_archsel (s : State) :
    (State.tickHandler s).archsel = s.archsel := by
  simp [State.tickHandler]

@[simp] theorem State.tickHandler_speedsel (s : State) :
    (State.tickHandler s).speedsel = s.speedsel := by
  simp [State.tickHandler]

@[simp] theorem State.tickHandler_resetLine (s : State) :
    (State.tickHandler s).resetLine = s.resetLine := by
  simp [State.tickHandler]

@[simp] theorem State.tickHandler_busen (s : State) :
    (State.tickHandler s).busen = s.busen := by
  simp [State.tickHandler]

@[simp] theorem State.tickHandler_ack (s : State) :
    (State.tickHandler s).ack = s.ack := by
  simp [State.tickHandler]

@[simp] theorem State.tickHandler_aoe (s : State) :
    (State.tickHandler s).aoe = s.aoe := by
  simp [State.tickHandler]

@[simp] theorem State.tickHandler_rwn (s : State) :
    (State.tickHandler s).rwn = s.rwn := by
  simp [State.tickHandler]

@[simp] theorem State.tickHandler_latch (s : State) :
    (State.tickHandler s).latch = s.latch := by
  simp [State.tickHandler]

@[simp] theorem State.tickHandler_sclk (s : State) :
    (State.tickHandler s).sclk = s.sclk := by
  simp [State.tickHandler]

@[simp] theorem State.tickHandler_sdo (s : State) :
    (State.tickHandler s).sdo = s.sdo := by
  simp [State.tickHandler]

@[simp] theorem State.tickHandler_sdi (s : State) :
    (State.tickHandler s).sdi = s.sdi := by
  simp [State.tickHandler]

@[simp] theorem State.tickHandler_req (s : State) :
    (State.tickHandler s).req = s.req := by
  simp [State.tickHandler]

@[simp] theorem State.tickHandler_dbell (s : State) :
    (State.tickHandler s).dbell = s.dbell := by
  simp [State.tickHandler]

@[simp] theorem State.tickHandler_srAddr (s : State) :
    (State.tickHandler s).srAddr = s.srAddr := by
  simp [State.tickHandler]

@[simp] theorem State.tickHandler_srData (s : State) :
    (State.tickHandler s).srData = s.srData := by
  simp [State.tickHandler]

@[simp] theorem State.tickHandler_mem (s : State) :
    (State.tickHandler s).mem = s.mem := by
  simp [State.tickHandler]

@[simp] theorem State.tickHandler_setting0 (s : State) :
    (State.tickHandler s).setting0 = s.setting0 := by
  simp [State.tickHandler]

@[simp] theorem State.tickHandler_setting1 (s : State) :
    (State.tickHandler s).setting1 = s.setting1 := by
  simp [State.tickHandler]

@[simp] theorem State.tickHandler_stream (s : State) :
    (State.tickHandler s).stream = s.stream := by
  simp [State.tickHandler]

@[simp] theorem State.tickHandler_refused (s : State) :
    (State.tickHandler s).refused = s.refused := by
  simp [State.tickHandler]

@[simp] theorem State.tickHandler_schedule (s : State) :
    (State.tickHandler s).schedule = s.schedule := by
  simp [State.tickHandler]

@[simp] theorem State.tickHandler_hostShare (s : State) :
    (State.tickHandler s).hostShare = s.hostShare := by
  simp [State.tickHandler]

@[simp] theorem State.tickHandler_endless (s : State) :
    (State.tickHandler s).endless = s.endless := by
  simp [State.tickHandler]

@[simp] theorem State.tickHandler_moveDraws (s : State) :
    (State.tickHandler s).moveDraws = s.moveDraws := by
  simp [State.tickHandler]

@[simp] theorem State.tickHandler_byteDraws (s : State) :
    (State.tickHandler s).byteDraws = s.byteDraws := by
  simp [State.tickHandler]

@[simp] theorem State.tickHandler_edgeDraws (s : State) :
    (State.tickHandler s).edgeDraws = s.edgeDraws := by
  simp [State.tickHandler]

@[simp] theorem State.tickHandler_frameOut (s : State) :
    (State.tickHandler s).frameOut = s.frameOut := by
  simp [State.tickHandler]

@[simp] theorem State.tickHandler_frameIn (s : State) :
    (State.tickHandler s).frameIn = s.frameIn := by
  simp [State.tickHandler]

@[simp] theorem State.deliverPending_cfg (s : State) :
    (State.deliverPending s).cfg = s.cfg := by
  simp [State.deliverPending]

@[simp] theorem State.deliverPending_opA (s : State) :
    (State.deliverPending s).opA = s.opA := by
  simp [State.deliverPending]

@[simp] theorem State.deliverPending_opD (s : State) :
    (State.deliverPending s).opD = s.opD := by
  simp [State.deliverPending]

@[simp] theorem State.deliverPending_opN (s : State) :
    (State.deliverPending s).opN = s.opN := by
  simp [State.deliverPending]

@[simp] theorem State.deliverPending_opS (s : State) :
    (State.deliverPending s).opS = s.opS := by
  simp [State.deliverPending]

@[simp] theorem State.deliverPending_opT (s : State) :
    (State.deliverPending s).opT = s.opT := by
  simp [State.deliverPending]

@[simp] theorem State.deliverPending_q (s : State) :
    (State.deliverPending s).q = s.q := by
  simp [State.deliverPending]

@[simp] theorem State.deliverPending_qbuf (s : State) :
    (State.deliverPending s).qbuf = s.qbuf := by
  simp [State.deliverPending]

@[simp] theorem State.deliverPending_qt (s : State) :
    (State.deliverPending s).qt = s.qt := by
  simp [State.deliverPending]

@[simp] theorem State.deliverPending_cpos (s : State) :
    (State.deliverPending s).cpos = s.cpos := by
  simp [State.deliverPending]

@[simp] theorem State.deliverPending_runstate (s : State) :
    (State.deliverPending s).runstate = s.runstate := by
  simp [State.deliverPending]

@[simp] theorem State.deliverPending_arch (s : State) :
    (State.deliverPending s).arch = s.arch := by
  simp [State.deliverPending]

@[simp] theorem State.deliverPending_speed (s : State) :
    (State.deliverPending s).speed = s.speed := by
  simp [State.deliverPending]

@[simp] theorem State.deliverPending_tickArmed (s : State) :
    (State.deliverPending s).tickArmed = s.tickArmed := by
  simp [State.deliverPending]

@[simp] theorem State.deliverPending_ie (s : State) :
    (State.deliverPending s).ie = s.ie := by
  simp [State.deliverPending]

@[simp] theorem State.deliverPending_doorbellIe (s : State) :
    (State.deliverPending s).doorbellIe = s.doorbellIe := by
  simp [State.deliverPending]

@[simp] theorem State.deliverPending_initialised (s : State) :
    (State.deliverPending s).initialised = s.initialised := by
  simp [State.deliverPending]

@[simp] theorem State.deliverPending_fault (s : State) :
    (State.deliverPending s).fault = s.fault := by
  simp [State.deliverPending]

@[simp] theorem State.deliverPending_linkBusy (s : State) :
    (State.deliverPending s).linkBusy = s.linkBusy := by
  simp [State.deliverPending]

@[simp] theorem State.deliverPending_arbPhase (s : State) :
    (State.deliverPending s).arbPhase = s.arbPhase := by
  simp [State.deliverPending]

@[simp] theorem State.deliverPending_arbWasRunning (s : State) :
    (State.deliverPending s).arbWasRunning = s.arbWasRunning := by
  simp [State.deliverPending]

@[simp] theorem State.deliverPending_archsel (s : State) :
    (State.deliverPending s).archsel = s.archsel := by
  simp [State.deliverPending]

@[simp] theorem State.deliverPending_speedsel (s : State) :
    (State.deliverPending s).speedsel = s.speedsel := by
  simp [State.deliverPending]

@[simp] theorem State.deliverPending_resetLine (s : State) :
    (State.deliverPending s).resetLine = s.resetLine := by
  simp [State.deliverPending]

@[simp] theorem State.deliverPending_busen (s : State) :
    (State.deliverPending s).busen = s.busen := by
  simp [State.deliverPending]

@[simp] theorem State.deliverPending_int (s : State) :
    (State.deliverPending s).int = s.int := by
  simp [State.deliverPending]

@[simp] theorem State.deliverPending_ack (s : State) :
    (State.deliverPending s).ack = s.ack := by
  simp [State.deliverPending]

@[simp] theorem State.deliverPending_aoe (s : State) :
    (State.deliverPending s).aoe = s.aoe := by
  simp [State.deliverPending]

@[simp] theorem State.deliverPending_rwn (s : State) :
    (State.deliverPending s).rwn = s.rwn := by
  simp [State.deliverPending]

@[simp] theorem State.deliverPending_latch (s : State) :
    (State.deliverPending s).latch = s.latch := by
  simp [State.deliverPending]

@[simp] theorem State.deliverPending_sclk (s : State) :
    (State.deliverPending s).sclk = s.sclk := by
  simp [State.deliverPending]

@[simp] theorem State.deliverPending_sdo (s : State) :
    (State.deliverPending s).sdo = s.sdo := by
  simp [State.deliverPending]

@[simp] theorem State.deliverPending_sdi (s : State) :
    (State.deliverPending s).sdi = s.sdi := by
  simp [State.deliverPending]

@[simp] theorem State.deliverPending_req (s : State) :
    (State.deliverPending s).req = s.req := by
  simp [State.deliverPending]

@[simp] theorem State.deliverPending_dbell (s : State) :
    (State.deliverPending s).dbell = s.dbell := by
  simp [State.deliverPending]

@[simp] theorem State.deliverPending_srAddr (s : State) :
    (State.deliverPending s).srAddr = s.srAddr := by
  simp [State.deliverPending]

@[simp] theorem State.deliverPending_srData (s : State) :
    (State.deliverPending s).srData = s.srData := by
  simp [State.deliverPending]

@[simp] theorem State.deliverPending_mem (s : State) :
    (State.deliverPending s).mem = s.mem := by
  simp [State.deliverPending]

@[simp] theorem State.deliverPending_setting0 (s : State) :
    (State.deliverPending s).setting0 = s.setting0 := by
  simp [State.deliverPending]

@[simp] theorem State.deliverPending_setting1 (s : State) :
    (State.deliverPending s).setting1 = s.setting1 := by
  simp [State.deliverPending]

@[simp] theorem State.deliverPending_hist (s : State) :
    (State.deliverPending s).hist = s.hist := by
  simp [State.deliverPending]

@[simp] theorem State.deliverPending_stream (s : State) :
    (State.deliverPending s).stream = s.stream := by
  simp [State.deliverPending]

@[simp] theorem State.deliverPending_refused (s : State) :
    (State.deliverPending s).refused = s.refused := by
  simp [State.deliverPending]

@[simp] theorem State.deliverPending_schedule (s : State) :
    (State.deliverPending s).schedule = s.schedule := by
  simp [State.deliverPending]

@[simp] theorem State.deliverPending_hostShare (s : State) :
    (State.deliverPending s).hostShare = s.hostShare := by
  simp [State.deliverPending]

@[simp] theorem State.deliverPending_endless (s : State) :
    (State.deliverPending s).endless = s.endless := by
  simp [State.deliverPending]

@[simp] theorem State.deliverPending_moveDraws (s : State) :
    (State.deliverPending s).moveDraws = s.moveDraws := by
  simp [State.deliverPending]

@[simp] theorem State.deliverPending_byteDraws (s : State) :
    (State.deliverPending s).byteDraws = s.byteDraws := by
  simp [State.deliverPending]

@[simp] theorem State.deliverPending_edgeDraws (s : State) :
    (State.deliverPending s).edgeDraws = s.edgeDraws := by
  simp [State.deliverPending]

@[simp] theorem State.deliverPending_frameOut (s : State) :
    (State.deliverPending s).frameOut = s.frameOut := by
  simp [State.deliverPending]

@[simp] theorem State.deliverPending_frameIn (s : State) :
    (State.deliverPending s).frameIn = s.frameIn := by
  simp [State.deliverPending]

@[simp] theorem State.setDbell_cfg (v : Bool) (s : State) :
    (State.setDbell v s).cfg = s.cfg := rfl

@[simp] theorem State.setDbell_opA (v : Bool) (s : State) :
    (State.setDbell v s).opA = s.opA := rfl

@[simp] theorem State.setDbell_opD (v : Bool) (s : State) :
    (State.setDbell v s).opD = s.opD := rfl

@[simp] theorem State.setDbell_opN (v : Bool) (s : State) :
    (State.setDbell v s).opN = s.opN := rfl

@[simp] theorem State.setDbell_opS (v : Bool) (s : State) :
    (State.setDbell v s).opS = s.opS := rfl

@[simp] theorem State.setDbell_opT (v : Bool) (s : State) :
    (State.setDbell v s).opT = s.opT := rfl

@[simp] theorem State.setDbell_q (v : Bool) (s : State) :
    (State.setDbell v s).q = s.q := rfl

@[simp] theorem State.setDbell_qbuf (v : Bool) (s : State) :
    (State.setDbell v s).qbuf = s.qbuf := rfl

@[simp] theorem State.setDbell_qt (v : Bool) (s : State) :
    (State.setDbell v s).qt = s.qt := rfl

@[simp] theorem State.setDbell_cpos (v : Bool) (s : State) :
    (State.setDbell v s).cpos = s.cpos := rfl

@[simp] theorem State.setDbell_runstate (v : Bool) (s : State) :
    (State.setDbell v s).runstate = s.runstate := rfl

@[simp] theorem State.setDbell_arch (v : Bool) (s : State) :
    (State.setDbell v s).arch = s.arch := rfl

@[simp] theorem State.setDbell_speed (v : Bool) (s : State) :
    (State.setDbell v s).speed = s.speed := rfl

@[simp] theorem State.setDbell_tickArmed (v : Bool) (s : State) :
    (State.setDbell v s).tickArmed = s.tickArmed := rfl

@[simp] theorem State.setDbell_doorbellLatch (v : Bool) (s : State) :
    (State.setDbell v s).doorbellLatch = s.doorbellLatch := rfl

@[simp] theorem State.setDbell_dbPending (v : Bool) (s : State) :
    (State.setDbell v s).dbPending = s.dbPending := rfl

@[simp] theorem State.setDbell_ie (v : Bool) (s : State) :
    (State.setDbell v s).ie = s.ie := rfl

@[simp] theorem State.setDbell_doorbellIe (v : Bool) (s : State) :
    (State.setDbell v s).doorbellIe = s.doorbellIe := rfl

@[simp] theorem State.setDbell_initialised (v : Bool) (s : State) :
    (State.setDbell v s).initialised = s.initialised := rfl

@[simp] theorem State.setDbell_fault (v : Bool) (s : State) :
    (State.setDbell v s).fault = s.fault := rfl

@[simp] theorem State.setDbell_linkBusy (v : Bool) (s : State) :
    (State.setDbell v s).linkBusy = s.linkBusy := rfl

@[simp] theorem State.setDbell_arbPhase (v : Bool) (s : State) :
    (State.setDbell v s).arbPhase = s.arbPhase := rfl

@[simp] theorem State.setDbell_arbWasRunning (v : Bool) (s : State) :
    (State.setDbell v s).arbWasRunning = s.arbWasRunning := rfl

@[simp] theorem State.setDbell_archsel (v : Bool) (s : State) :
    (State.setDbell v s).archsel = s.archsel := rfl

@[simp] theorem State.setDbell_speedsel (v : Bool) (s : State) :
    (State.setDbell v s).speedsel = s.speedsel := rfl

@[simp] theorem State.setDbell_resetLine (v : Bool) (s : State) :
    (State.setDbell v s).resetLine = s.resetLine := rfl

@[simp] theorem State.setDbell_busen (v : Bool) (s : State) :
    (State.setDbell v s).busen = s.busen := rfl

@[simp] theorem State.setDbell_int (v : Bool) (s : State) :
    (State.setDbell v s).int = s.int := rfl

@[simp] theorem State.setDbell_ack (v : Bool) (s : State) :
    (State.setDbell v s).ack = s.ack := rfl

@[simp] theorem State.setDbell_aoe (v : Bool) (s : State) :
    (State.setDbell v s).aoe = s.aoe := rfl

@[simp] theorem State.setDbell_rwn (v : Bool) (s : State) :
    (State.setDbell v s).rwn = s.rwn := rfl

@[simp] theorem State.setDbell_latch (v : Bool) (s : State) :
    (State.setDbell v s).latch = s.latch := rfl

@[simp] theorem State.setDbell_sclk (v : Bool) (s : State) :
    (State.setDbell v s).sclk = s.sclk := rfl

@[simp] theorem State.setDbell_sdo (v : Bool) (s : State) :
    (State.setDbell v s).sdo = s.sdo := rfl

@[simp] theorem State.setDbell_sdi (v : Bool) (s : State) :
    (State.setDbell v s).sdi = s.sdi := rfl

@[simp] theorem State.setDbell_req (v : Bool) (s : State) :
    (State.setDbell v s).req = s.req := rfl

@[simp] theorem State.setDbell_srAddr (v : Bool) (s : State) :
    (State.setDbell v s).srAddr = s.srAddr := rfl

@[simp] theorem State.setDbell_srData (v : Bool) (s : State) :
    (State.setDbell v s).srData = s.srData := rfl

@[simp] theorem State.setDbell_mem (v : Bool) (s : State) :
    (State.setDbell v s).mem = s.mem := rfl

@[simp] theorem State.setDbell_setting0 (v : Bool) (s : State) :
    (State.setDbell v s).setting0 = s.setting0 := rfl

@[simp] theorem State.setDbell_setting1 (v : Bool) (s : State) :
    (State.setDbell v s).setting1 = s.setting1 := rfl

@[simp] theorem State.setDbell_hist (v : Bool) (s : State) :
    (State.setDbell v s).hist = s.hist := rfl

@[simp] theorem State.setDbell_stream (v : Bool) (s : State) :
    (State.setDbell v s).stream = s.stream := rfl

@[simp] theorem State.setDbell_refused (v : Bool) (s : State) :
    (State.setDbell v s).refused = s.refused := rfl

@[simp] theorem State.setDbell_schedule (v : Bool) (s : State) :
    (State.setDbell v s).schedule = s.schedule := rfl

@[simp] theorem State.setDbell_hostShare (v : Bool) (s : State) :
    (State.setDbell v s).hostShare = s.hostShare := rfl

@[simp] theorem State.setDbell_endless (v : Bool) (s : State) :
    (State.setDbell v s).endless = s.endless := rfl

@[simp] theorem State.setDbell_moveDraws (v : Bool) (s : State) :
    (State.setDbell v s).moveDraws = s.moveDraws := rfl

@[simp] theorem State.setDbell_byteDraws (v : Bool) (s : State) :
    (State.setDbell v s).byteDraws = s.byteDraws := rfl

@[simp] theorem State.setDbell_edgeDraws (v : Bool) (s : State) :
    (State.setDbell v s).edgeDraws = s.edgeDraws := rfl

@[simp] theorem State.setDbell_frameOut (v : Bool) (s : State) :
    (State.setDbell v s).frameOut = s.frameOut := rfl

@[simp] theorem State.setDbell_frameIn (v : Bool) (s : State) :
    (State.setDbell v s).frameIn = s.frameIn := rfl

@[simp] theorem State.setReq_cfg (v : Bool) (s : State) :
    (State.setReq v s).cfg = s.cfg := rfl

@[simp] theorem State.setReq_opA (v : Bool) (s : State) :
    (State.setReq v s).opA = s.opA := rfl

@[simp] theorem State.setReq_opD (v : Bool) (s : State) :
    (State.setReq v s).opD = s.opD := rfl

@[simp] theorem State.setReq_opN (v : Bool) (s : State) :
    (State.setReq v s).opN = s.opN := rfl

@[simp] theorem State.setReq_opS (v : Bool) (s : State) :
    (State.setReq v s).opS = s.opS := rfl

@[simp] theorem State.setReq_opT (v : Bool) (s : State) :
    (State.setReq v s).opT = s.opT := rfl

@[simp] theorem State.setReq_q (v : Bool) (s : State) :
    (State.setReq v s).q = s.q := rfl

@[simp] theorem State.setReq_qbuf (v : Bool) (s : State) :
    (State.setReq v s).qbuf = s.qbuf := rfl

@[simp] theorem State.setReq_qt (v : Bool) (s : State) :
    (State.setReq v s).qt = s.qt := rfl

@[simp] theorem State.setReq_cpos (v : Bool) (s : State) :
    (State.setReq v s).cpos = s.cpos := rfl

@[simp] theorem State.setReq_runstate (v : Bool) (s : State) :
    (State.setReq v s).runstate = s.runstate := rfl

@[simp] theorem State.setReq_arch (v : Bool) (s : State) :
    (State.setReq v s).arch = s.arch := rfl

@[simp] theorem State.setReq_speed (v : Bool) (s : State) :
    (State.setReq v s).speed = s.speed := rfl

@[simp] theorem State.setReq_tickArmed (v : Bool) (s : State) :
    (State.setReq v s).tickArmed = s.tickArmed := rfl

@[simp] theorem State.setReq_doorbellLatch (v : Bool) (s : State) :
    (State.setReq v s).doorbellLatch = s.doorbellLatch := rfl

@[simp] theorem State.setReq_dbPending (v : Bool) (s : State) :
    (State.setReq v s).dbPending = s.dbPending := rfl

@[simp] theorem State.setReq_ie (v : Bool) (s : State) :
    (State.setReq v s).ie = s.ie := rfl

@[simp] theorem State.setReq_doorbellIe (v : Bool) (s : State) :
    (State.setReq v s).doorbellIe = s.doorbellIe := rfl

@[simp] theorem State.setReq_initialised (v : Bool) (s : State) :
    (State.setReq v s).initialised = s.initialised := rfl

@[simp] theorem State.setReq_fault (v : Bool) (s : State) :
    (State.setReq v s).fault = s.fault := rfl

@[simp] theorem State.setReq_linkBusy (v : Bool) (s : State) :
    (State.setReq v s).linkBusy = s.linkBusy := rfl

@[simp] theorem State.setReq_arbPhase (v : Bool) (s : State) :
    (State.setReq v s).arbPhase = s.arbPhase := rfl

@[simp] theorem State.setReq_arbWasRunning (v : Bool) (s : State) :
    (State.setReq v s).arbWasRunning = s.arbWasRunning := rfl

@[simp] theorem State.setReq_archsel (v : Bool) (s : State) :
    (State.setReq v s).archsel = s.archsel := rfl

@[simp] theorem State.setReq_speedsel (v : Bool) (s : State) :
    (State.setReq v s).speedsel = s.speedsel := rfl

@[simp] theorem State.setReq_resetLine (v : Bool) (s : State) :
    (State.setReq v s).resetLine = s.resetLine := rfl

@[simp] theorem State.setReq_busen (v : Bool) (s : State) :
    (State.setReq v s).busen = s.busen := rfl

@[simp] theorem State.setReq_int (v : Bool) (s : State) :
    (State.setReq v s).int = s.int := rfl

@[simp] theorem State.setReq_ack (v : Bool) (s : State) :
    (State.setReq v s).ack = s.ack := rfl

@[simp] theorem State.setReq_aoe (v : Bool) (s : State) :
    (State.setReq v s).aoe = s.aoe := rfl

@[simp] theorem State.setReq_rwn (v : Bool) (s : State) :
    (State.setReq v s).rwn = s.rwn := rfl

@[simp] theorem State.setReq_latch (v : Bool) (s : State) :
    (State.setReq v s).latch = s.latch := rfl

@[simp] theorem State.setReq_sclk (v : Bool) (s : State) :
    (State.setReq v s).sclk = s.sclk := rfl

@[simp] theorem State.setReq_sdo (v : Bool) (s : State) :
    (State.setReq v s).sdo = s.sdo := rfl

@[simp] theorem State.setReq_sdi (v : Bool) (s : State) :
    (State.setReq v s).sdi = s.sdi := rfl

@[simp] theorem State.setReq_dbell (v : Bool) (s : State) :
    (State.setReq v s).dbell = s.dbell := rfl

@[simp] theorem State.setReq_srAddr (v : Bool) (s : State) :
    (State.setReq v s).srAddr = s.srAddr := rfl

@[simp] theorem State.setReq_srData (v : Bool) (s : State) :
    (State.setReq v s).srData = s.srData := rfl

@[simp] theorem State.setReq_mem (v : Bool) (s : State) :
    (State.setReq v s).mem = s.mem := rfl

@[simp] theorem State.setReq_setting0 (v : Bool) (s : State) :
    (State.setReq v s).setting0 = s.setting0 := rfl

@[simp] theorem State.setReq_setting1 (v : Bool) (s : State) :
    (State.setReq v s).setting1 = s.setting1 := rfl

@[simp] theorem State.setReq_hist (v : Bool) (s : State) :
    (State.setReq v s).hist = s.hist := rfl

@[simp] theorem State.setReq_stream (v : Bool) (s : State) :
    (State.setReq v s).stream = s.stream := rfl

@[simp] theorem State.setReq_refused (v : Bool) (s : State) :
    (State.setReq v s).refused = s.refused := rfl

@[simp] theorem State.setReq_schedule (v : Bool) (s : State) :
    (State.setReq v s).schedule = s.schedule := rfl

@[simp] theorem State.setReq_hostShare (v : Bool) (s : State) :
    (State.setReq v s).hostShare = s.hostShare := rfl

@[simp] theorem State.setReq_endless (v : Bool) (s : State) :
    (State.setReq v s).endless = s.endless := rfl

@[simp] theorem State.setReq_moveDraws (v : Bool) (s : State) :
    (State.setReq v s).moveDraws = s.moveDraws := rfl

@[simp] theorem State.setReq_byteDraws (v : Bool) (s : State) :
    (State.setReq v s).byteDraws = s.byteDraws := rfl

@[simp] theorem State.setReq_edgeDraws (v : Bool) (s : State) :
    (State.setReq v s).edgeDraws = s.edgeDraws := rfl

@[simp] theorem State.setReq_frameOut (v : Bool) (s : State) :
    (State.setReq v s).frameOut = s.frameOut := rfl

@[simp] theorem State.setReq_frameIn (v : Bool) (s : State) :
    (State.setReq v s).frameIn = s.frameIn := rfl

@[simp] theorem State.setDbell_dbell (v : Bool) (s : State) : (s.setDbell v).dbell = v := rfl

@[simp] theorem State.setReq_req (v : Bool) (s : State) : (s.setReq v).req = v := rfl

@[simp] theorem State.dbellEdge_cfg (v : Bool) (s : State) :
    (State.dbellEdge v s).cfg = s.cfg := by
  simp only [State.dbellEdge]; split <;> (try split) <;> simp

@[simp] theorem State.dbellEdge_opA (v : Bool) (s : State) :
    (State.dbellEdge v s).opA = s.opA := by
  simp only [State.dbellEdge]; split <;> (try split) <;> simp

@[simp] theorem State.dbellEdge_opD (v : Bool) (s : State) :
    (State.dbellEdge v s).opD = s.opD := by
  simp only [State.dbellEdge]; split <;> (try split) <;> simp

@[simp] theorem State.dbellEdge_opN (v : Bool) (s : State) :
    (State.dbellEdge v s).opN = s.opN := by
  simp only [State.dbellEdge]; split <;> (try split) <;> simp

@[simp] theorem State.dbellEdge_opS (v : Bool) (s : State) :
    (State.dbellEdge v s).opS = s.opS := by
  simp only [State.dbellEdge]; split <;> (try split) <;> simp

@[simp] theorem State.dbellEdge_opT (v : Bool) (s : State) :
    (State.dbellEdge v s).opT = s.opT := by
  simp only [State.dbellEdge]; split <;> (try split) <;> simp

@[simp] theorem State.dbellEdge_q (v : Bool) (s : State) :
    (State.dbellEdge v s).q = s.q := by
  simp only [State.dbellEdge]; split <;> (try split) <;> simp

@[simp] theorem State.dbellEdge_qbuf (v : Bool) (s : State) :
    (State.dbellEdge v s).qbuf = s.qbuf := by
  simp only [State.dbellEdge]; split <;> (try split) <;> simp

@[simp] theorem State.dbellEdge_qt (v : Bool) (s : State) :
    (State.dbellEdge v s).qt = s.qt := by
  simp only [State.dbellEdge]; split <;> (try split) <;> simp

@[simp] theorem State.dbellEdge_cpos (v : Bool) (s : State) :
    (State.dbellEdge v s).cpos = s.cpos := by
  simp only [State.dbellEdge]; split <;> (try split) <;> simp

@[simp] theorem State.dbellEdge_runstate (v : Bool) (s : State) :
    (State.dbellEdge v s).runstate = s.runstate := by
  simp only [State.dbellEdge]; split <;> (try split) <;> simp

@[simp] theorem State.dbellEdge_arch (v : Bool) (s : State) :
    (State.dbellEdge v s).arch = s.arch := by
  simp only [State.dbellEdge]; split <;> (try split) <;> simp

@[simp] theorem State.dbellEdge_speed (v : Bool) (s : State) :
    (State.dbellEdge v s).speed = s.speed := by
  simp only [State.dbellEdge]; split <;> (try split) <;> simp

@[simp] theorem State.dbellEdge_tickArmed (v : Bool) (s : State) :
    (State.dbellEdge v s).tickArmed = s.tickArmed := by
  simp only [State.dbellEdge]; split <;> (try split) <;> simp

@[simp] theorem State.dbellEdge_ie (v : Bool) (s : State) :
    (State.dbellEdge v s).ie = s.ie := by
  simp only [State.dbellEdge]; split <;> (try split) <;> simp

@[simp] theorem State.dbellEdge_doorbellIe (v : Bool) (s : State) :
    (State.dbellEdge v s).doorbellIe = s.doorbellIe := by
  simp only [State.dbellEdge]; split <;> (try split) <;> simp

@[simp] theorem State.dbellEdge_initialised (v : Bool) (s : State) :
    (State.dbellEdge v s).initialised = s.initialised := by
  simp only [State.dbellEdge]; split <;> (try split) <;> simp

@[simp] theorem State.dbellEdge_fault (v : Bool) (s : State) :
    (State.dbellEdge v s).fault = s.fault := by
  simp only [State.dbellEdge]; split <;> (try split) <;> simp

@[simp] theorem State.dbellEdge_linkBusy (v : Bool) (s : State) :
    (State.dbellEdge v s).linkBusy = s.linkBusy := by
  simp only [State.dbellEdge]; split <;> (try split) <;> simp

@[simp] theorem State.dbellEdge_arbPhase (v : Bool) (s : State) :
    (State.dbellEdge v s).arbPhase = s.arbPhase := by
  simp only [State.dbellEdge]; split <;> (try split) <;> simp

@[simp] theorem State.dbellEdge_arbWasRunning (v : Bool) (s : State) :
    (State.dbellEdge v s).arbWasRunning = s.arbWasRunning := by
  simp only [State.dbellEdge]; split <;> (try split) <;> simp

@[simp] theorem State.dbellEdge_archsel (v : Bool) (s : State) :
    (State.dbellEdge v s).archsel = s.archsel := by
  simp only [State.dbellEdge]; split <;> (try split) <;> simp

@[simp] theorem State.dbellEdge_speedsel (v : Bool) (s : State) :
    (State.dbellEdge v s).speedsel = s.speedsel := by
  simp only [State.dbellEdge]; split <;> (try split) <;> simp

@[simp] theorem State.dbellEdge_resetLine (v : Bool) (s : State) :
    (State.dbellEdge v s).resetLine = s.resetLine := by
  simp only [State.dbellEdge]; split <;> (try split) <;> simp

@[simp] theorem State.dbellEdge_busen (v : Bool) (s : State) :
    (State.dbellEdge v s).busen = s.busen := by
  simp only [State.dbellEdge]; split <;> (try split) <;> simp

@[simp] theorem State.dbellEdge_int (v : Bool) (s : State) :
    (State.dbellEdge v s).int = s.int := by
  simp only [State.dbellEdge]; split <;> (try split) <;> simp

@[simp] theorem State.dbellEdge_ack (v : Bool) (s : State) :
    (State.dbellEdge v s).ack = s.ack := by
  simp only [State.dbellEdge]; split <;> (try split) <;> simp

@[simp] theorem State.dbellEdge_aoe (v : Bool) (s : State) :
    (State.dbellEdge v s).aoe = s.aoe := by
  simp only [State.dbellEdge]; split <;> (try split) <;> simp

@[simp] theorem State.dbellEdge_rwn (v : Bool) (s : State) :
    (State.dbellEdge v s).rwn = s.rwn := by
  simp only [State.dbellEdge]; split <;> (try split) <;> simp

@[simp] theorem State.dbellEdge_latch (v : Bool) (s : State) :
    (State.dbellEdge v s).latch = s.latch := by
  simp only [State.dbellEdge]; split <;> (try split) <;> simp

@[simp] theorem State.dbellEdge_sclk (v : Bool) (s : State) :
    (State.dbellEdge v s).sclk = s.sclk := by
  simp only [State.dbellEdge]; split <;> (try split) <;> simp

@[simp] theorem State.dbellEdge_sdo (v : Bool) (s : State) :
    (State.dbellEdge v s).sdo = s.sdo := by
  simp only [State.dbellEdge]; split <;> (try split) <;> simp

@[simp] theorem State.dbellEdge_sdi (v : Bool) (s : State) :
    (State.dbellEdge v s).sdi = s.sdi := by
  simp only [State.dbellEdge]; split <;> (try split) <;> simp

@[simp] theorem State.dbellEdge_req (v : Bool) (s : State) :
    (State.dbellEdge v s).req = s.req := by
  simp only [State.dbellEdge]; split <;> (try split) <;> simp

@[simp] theorem State.dbellEdge_srAddr (v : Bool) (s : State) :
    (State.dbellEdge v s).srAddr = s.srAddr := by
  simp only [State.dbellEdge]; split <;> (try split) <;> simp

@[simp] theorem State.dbellEdge_srData (v : Bool) (s : State) :
    (State.dbellEdge v s).srData = s.srData := by
  simp only [State.dbellEdge]; split <;> (try split) <;> simp

@[simp] theorem State.dbellEdge_mem (v : Bool) (s : State) :
    (State.dbellEdge v s).mem = s.mem := by
  simp only [State.dbellEdge]; split <;> (try split) <;> simp

@[simp] theorem State.dbellEdge_setting0 (v : Bool) (s : State) :
    (State.dbellEdge v s).setting0 = s.setting0 := by
  simp only [State.dbellEdge]; split <;> (try split) <;> simp

@[simp] theorem State.dbellEdge_setting1 (v : Bool) (s : State) :
    (State.dbellEdge v s).setting1 = s.setting1 := by
  simp only [State.dbellEdge]; split <;> (try split) <;> simp

@[simp] theorem State.dbellEdge_stream (v : Bool) (s : State) :
    (State.dbellEdge v s).stream = s.stream := by
  simp only [State.dbellEdge]; split <;> (try split) <;> simp

@[simp] theorem State.dbellEdge_refused (v : Bool) (s : State) :
    (State.dbellEdge v s).refused = s.refused := by
  simp only [State.dbellEdge]; split <;> (try split) <;> simp

@[simp] theorem State.dbellEdge_schedule (v : Bool) (s : State) :
    (State.dbellEdge v s).schedule = s.schedule := by
  simp only [State.dbellEdge]; split <;> (try split) <;> simp

@[simp] theorem State.dbellEdge_hostShare (v : Bool) (s : State) :
    (State.dbellEdge v s).hostShare = s.hostShare := by
  simp only [State.dbellEdge]; split <;> (try split) <;> simp

@[simp] theorem State.dbellEdge_endless (v : Bool) (s : State) :
    (State.dbellEdge v s).endless = s.endless := by
  simp only [State.dbellEdge]; split <;> (try split) <;> simp

@[simp] theorem State.dbellEdge_moveDraws (v : Bool) (s : State) :
    (State.dbellEdge v s).moveDraws = s.moveDraws := by
  simp only [State.dbellEdge]; split <;> (try split) <;> simp

@[simp] theorem State.dbellEdge_byteDraws (v : Bool) (s : State) :
    (State.dbellEdge v s).byteDraws = s.byteDraws := by
  simp only [State.dbellEdge]; split <;> (try split) <;> simp

@[simp] theorem State.dbellEdge_frameOut (v : Bool) (s : State) :
    (State.dbellEdge v s).frameOut = s.frameOut := by
  simp only [State.dbellEdge]; split <;> (try split) <;> simp

@[simp] theorem State.dbellEdge_frameIn (v : Bool) (s : State) :
    (State.dbellEdge v s).frameIn = s.frameIn := by
  simp only [State.dbellEdge]; split <;> (try split) <;> simp

@[simp] theorem State.changeReq_cfg (v : Bool) (s : State) :
    (State.changeReq v s).cfg = s.cfg := by
  simp [State.changeReq]

@[simp] theorem State.changeReq_opA (v : Bool) (s : State) :
    (State.changeReq v s).opA = s.opA := by
  simp [State.changeReq]

@[simp] theorem State.changeReq_opD (v : Bool) (s : State) :
    (State.changeReq v s).opD = s.opD := by
  simp [State.changeReq]

@[simp] theorem State.changeReq_opN (v : Bool) (s : State) :
    (State.changeReq v s).opN = s.opN := by
  simp [State.changeReq]

@[simp] theorem State.changeReq_opS (v : Bool) (s : State) :
    (State.changeReq v s).opS = s.opS := by
  simp [State.changeReq]

@[simp] theorem State.changeReq_opT (v : Bool) (s : State) :
    (State.changeReq v s).opT = s.opT := by
  simp [State.changeReq]

@[simp] theorem State.changeReq_q (v : Bool) (s : State) :
    (State.changeReq v s).q = s.q := by
  simp [State.changeReq]

@[simp] theorem State.changeReq_qbuf (v : Bool) (s : State) :
    (State.changeReq v s).qbuf = s.qbuf := by
  simp [State.changeReq]

@[simp] theorem State.changeReq_qt (v : Bool) (s : State) :
    (State.changeReq v s).qt = s.qt := by
  simp [State.changeReq]

@[simp] theorem State.changeReq_cpos (v : Bool) (s : State) :
    (State.changeReq v s).cpos = s.cpos := by
  simp [State.changeReq]

@[simp] theorem State.changeReq_runstate (v : Bool) (s : State) :
    (State.changeReq v s).runstate = s.runstate := by
  simp [State.changeReq]

@[simp] theorem State.changeReq_arch (v : Bool) (s : State) :
    (State.changeReq v s).arch = s.arch := by
  simp [State.changeReq]

@[simp] theorem State.changeReq_speed (v : Bool) (s : State) :
    (State.changeReq v s).speed = s.speed := by
  simp [State.changeReq]

@[simp] theorem State.changeReq_tickArmed (v : Bool) (s : State) :
    (State.changeReq v s).tickArmed = s.tickArmed := by
  simp [State.changeReq]

@[simp] theorem State.changeReq_doorbellLatch (v : Bool) (s : State) :
    (State.changeReq v s).doorbellLatch = s.doorbellLatch := by
  simp [State.changeReq]

@[simp] theorem State.changeReq_dbPending (v : Bool) (s : State) :
    (State.changeReq v s).dbPending = s.dbPending := by
  simp [State.changeReq]

@[simp] theorem State.changeReq_ie (v : Bool) (s : State) :
    (State.changeReq v s).ie = s.ie := by
  simp [State.changeReq]

@[simp] theorem State.changeReq_doorbellIe (v : Bool) (s : State) :
    (State.changeReq v s).doorbellIe = s.doorbellIe := by
  simp [State.changeReq]

@[simp] theorem State.changeReq_initialised (v : Bool) (s : State) :
    (State.changeReq v s).initialised = s.initialised := by
  simp [State.changeReq]

@[simp] theorem State.changeReq_fault (v : Bool) (s : State) :
    (State.changeReq v s).fault = s.fault := by
  simp [State.changeReq]

@[simp] theorem State.changeReq_linkBusy (v : Bool) (s : State) :
    (State.changeReq v s).linkBusy = s.linkBusy := by
  simp [State.changeReq]

@[simp] theorem State.changeReq_arbPhase (v : Bool) (s : State) :
    (State.changeReq v s).arbPhase = s.arbPhase := by
  simp [State.changeReq]

@[simp] theorem State.changeReq_arbWasRunning (v : Bool) (s : State) :
    (State.changeReq v s).arbWasRunning = s.arbWasRunning := by
  simp [State.changeReq]

@[simp] theorem State.changeReq_archsel (v : Bool) (s : State) :
    (State.changeReq v s).archsel = s.archsel := by
  simp [State.changeReq]

@[simp] theorem State.changeReq_speedsel (v : Bool) (s : State) :
    (State.changeReq v s).speedsel = s.speedsel := by
  simp [State.changeReq]

@[simp] theorem State.changeReq_resetLine (v : Bool) (s : State) :
    (State.changeReq v s).resetLine = s.resetLine := by
  simp [State.changeReq]

@[simp] theorem State.changeReq_busen (v : Bool) (s : State) :
    (State.changeReq v s).busen = s.busen := by
  simp [State.changeReq]

@[simp] theorem State.changeReq_int (v : Bool) (s : State) :
    (State.changeReq v s).int = s.int := by
  simp [State.changeReq]

@[simp] theorem State.changeReq_ack (v : Bool) (s : State) :
    (State.changeReq v s).ack = s.ack := by
  simp [State.changeReq]

@[simp] theorem State.changeReq_aoe (v : Bool) (s : State) :
    (State.changeReq v s).aoe = s.aoe := by
  simp [State.changeReq]

@[simp] theorem State.changeReq_rwn (v : Bool) (s : State) :
    (State.changeReq v s).rwn = s.rwn := by
  simp [State.changeReq]

@[simp] theorem State.changeReq_latch (v : Bool) (s : State) :
    (State.changeReq v s).latch = s.latch := by
  simp [State.changeReq]

@[simp] theorem State.changeReq_sclk (v : Bool) (s : State) :
    (State.changeReq v s).sclk = s.sclk := by
  simp [State.changeReq]

@[simp] theorem State.changeReq_sdo (v : Bool) (s : State) :
    (State.changeReq v s).sdo = s.sdo := by
  simp [State.changeReq]

@[simp] theorem State.changeReq_sdi (v : Bool) (s : State) :
    (State.changeReq v s).sdi = s.sdi := by
  simp [State.changeReq]

@[simp] theorem State.changeReq_dbell (v : Bool) (s : State) :
    (State.changeReq v s).dbell = s.dbell := by
  simp [State.changeReq]

@[simp] theorem State.changeReq_srAddr (v : Bool) (s : State) :
    (State.changeReq v s).srAddr = s.srAddr := by
  simp [State.changeReq]

@[simp] theorem State.changeReq_srData (v : Bool) (s : State) :
    (State.changeReq v s).srData = s.srData := by
  simp [State.changeReq]

@[simp] theorem State.changeReq_mem (v : Bool) (s : State) :
    (State.changeReq v s).mem = s.mem := by
  simp [State.changeReq]

@[simp] theorem State.changeReq_setting0 (v : Bool) (s : State) :
    (State.changeReq v s).setting0 = s.setting0 := by
  simp [State.changeReq]

@[simp] theorem State.changeReq_setting1 (v : Bool) (s : State) :
    (State.changeReq v s).setting1 = s.setting1 := by
  simp [State.changeReq]

@[simp] theorem State.changeReq_stream (v : Bool) (s : State) :
    (State.changeReq v s).stream = s.stream := by
  simp [State.changeReq]

@[simp] theorem State.changeReq_refused (v : Bool) (s : State) :
    (State.changeReq v s).refused = s.refused := by
  simp [State.changeReq]

@[simp] theorem State.changeReq_schedule (v : Bool) (s : State) :
    (State.changeReq v s).schedule = s.schedule := by
  simp [State.changeReq]

@[simp] theorem State.changeReq_hostShare (v : Bool) (s : State) :
    (State.changeReq v s).hostShare = s.hostShare := by
  simp [State.changeReq]

@[simp] theorem State.changeReq_endless (v : Bool) (s : State) :
    (State.changeReq v s).endless = s.endless := by
  simp [State.changeReq]

@[simp] theorem State.changeReq_moveDraws (v : Bool) (s : State) :
    (State.changeReq v s).moveDraws = s.moveDraws := by
  simp [State.changeReq]

@[simp] theorem State.changeReq_byteDraws (v : Bool) (s : State) :
    (State.changeReq v s).byteDraws = s.byteDraws := by
  simp [State.changeReq]

@[simp] theorem State.changeReq_edgeDraws (v : Bool) (s : State) :
    (State.changeReq v s).edgeDraws = s.edgeDraws := by
  simp [State.changeReq]

@[simp] theorem State.changeReq_frameOut (v : Bool) (s : State) :
    (State.changeReq v s).frameOut = s.frameOut := by
  simp [State.changeReq]

@[simp] theorem State.changeReq_frameIn (v : Bool) (s : State) :
    (State.changeReq v s).frameIn = s.frameIn := by
  simp [State.changeReq]

@[simp] theorem State.cardStore_cfg (a : Addr) (v : Byte) (s : State) :
    (State.cardStore a v s).cfg = s.cfg := by
  simp [State.cardStore]

@[simp] theorem State.cardStore_opA (a : Addr) (v : Byte) (s : State) :
    (State.cardStore a v s).opA = s.opA := by
  simp [State.cardStore]

@[simp] theorem State.cardStore_opD (a : Addr) (v : Byte) (s : State) :
    (State.cardStore a v s).opD = s.opD := by
  simp [State.cardStore]

@[simp] theorem State.cardStore_opN (a : Addr) (v : Byte) (s : State) :
    (State.cardStore a v s).opN = s.opN := by
  simp [State.cardStore]

@[simp] theorem State.cardStore_opS (a : Addr) (v : Byte) (s : State) :
    (State.cardStore a v s).opS = s.opS := by
  simp [State.cardStore]

@[simp] theorem State.cardStore_opT (a : Addr) (v : Byte) (s : State) :
    (State.cardStore a v s).opT = s.opT := by
  simp [State.cardStore]

@[simp] theorem State.cardStore_q (a : Addr) (v : Byte) (s : State) :
    (State.cardStore a v s).q = s.q := by
  simp [State.cardStore]

@[simp] theorem State.cardStore_qbuf (a : Addr) (v : Byte) (s : State) :
    (State.cardStore a v s).qbuf = s.qbuf := by
  simp [State.cardStore]

@[simp] theorem State.cardStore_qt (a : Addr) (v : Byte) (s : State) :
    (State.cardStore a v s).qt = s.qt := by
  simp [State.cardStore]

@[simp] theorem State.cardStore_cpos (a : Addr) (v : Byte) (s : State) :
    (State.cardStore a v s).cpos = s.cpos := by
  simp [State.cardStore]

@[simp] theorem State.cardStore_runstate (a : Addr) (v : Byte) (s : State) :
    (State.cardStore a v s).runstate = s.runstate := by
  simp [State.cardStore]

@[simp] theorem State.cardStore_arch (a : Addr) (v : Byte) (s : State) :
    (State.cardStore a v s).arch = s.arch := by
  simp [State.cardStore]

@[simp] theorem State.cardStore_speed (a : Addr) (v : Byte) (s : State) :
    (State.cardStore a v s).speed = s.speed := by
  simp [State.cardStore]

@[simp] theorem State.cardStore_tickArmed (a : Addr) (v : Byte) (s : State) :
    (State.cardStore a v s).tickArmed = s.tickArmed := by
  simp [State.cardStore]

@[simp] theorem State.cardStore_doorbellLatch (a : Addr) (v : Byte) (s : State) :
    (State.cardStore a v s).doorbellLatch = s.doorbellLatch := by
  simp [State.cardStore]

@[simp] theorem State.cardStore_dbPending (a : Addr) (v : Byte) (s : State) :
    (State.cardStore a v s).dbPending = s.dbPending := by
  simp [State.cardStore]

@[simp] theorem State.cardStore_ie (a : Addr) (v : Byte) (s : State) :
    (State.cardStore a v s).ie = s.ie := by
  simp [State.cardStore]

@[simp] theorem State.cardStore_doorbellIe (a : Addr) (v : Byte) (s : State) :
    (State.cardStore a v s).doorbellIe = s.doorbellIe := by
  simp [State.cardStore]

@[simp] theorem State.cardStore_initialised (a : Addr) (v : Byte) (s : State) :
    (State.cardStore a v s).initialised = s.initialised := by
  simp [State.cardStore]

@[simp] theorem State.cardStore_fault (a : Addr) (v : Byte) (s : State) :
    (State.cardStore a v s).fault = s.fault := by
  simp [State.cardStore]

@[simp] theorem State.cardStore_linkBusy (a : Addr) (v : Byte) (s : State) :
    (State.cardStore a v s).linkBusy = s.linkBusy := by
  simp [State.cardStore]

@[simp] theorem State.cardStore_arbPhase (a : Addr) (v : Byte) (s : State) :
    (State.cardStore a v s).arbPhase = s.arbPhase := by
  simp [State.cardStore]

@[simp] theorem State.cardStore_arbWasRunning (a : Addr) (v : Byte) (s : State) :
    (State.cardStore a v s).arbWasRunning = s.arbWasRunning := by
  simp [State.cardStore]

@[simp] theorem State.cardStore_archsel (a : Addr) (v : Byte) (s : State) :
    (State.cardStore a v s).archsel = s.archsel := by
  simp [State.cardStore]

@[simp] theorem State.cardStore_speedsel (a : Addr) (v : Byte) (s : State) :
    (State.cardStore a v s).speedsel = s.speedsel := by
  simp [State.cardStore]

@[simp] theorem State.cardStore_resetLine (a : Addr) (v : Byte) (s : State) :
    (State.cardStore a v s).resetLine = s.resetLine := by
  simp [State.cardStore]

@[simp] theorem State.cardStore_busen (a : Addr) (v : Byte) (s : State) :
    (State.cardStore a v s).busen = s.busen := by
  simp [State.cardStore]

@[simp] theorem State.cardStore_int (a : Addr) (v : Byte) (s : State) :
    (State.cardStore a v s).int = s.int := by
  simp [State.cardStore]

@[simp] theorem State.cardStore_ack (a : Addr) (v : Byte) (s : State) :
    (State.cardStore a v s).ack = s.ack := by
  simp [State.cardStore]

@[simp] theorem State.cardStore_aoe (a : Addr) (v : Byte) (s : State) :
    (State.cardStore a v s).aoe = s.aoe := by
  simp [State.cardStore]

@[simp] theorem State.cardStore_rwn (a : Addr) (v : Byte) (s : State) :
    (State.cardStore a v s).rwn = s.rwn := by
  simp [State.cardStore]

@[simp] theorem State.cardStore_latch (a : Addr) (v : Byte) (s : State) :
    (State.cardStore a v s).latch = s.latch := by
  simp [State.cardStore]

@[simp] theorem State.cardStore_sclk (a : Addr) (v : Byte) (s : State) :
    (State.cardStore a v s).sclk = s.sclk := by
  simp [State.cardStore]

@[simp] theorem State.cardStore_sdo (a : Addr) (v : Byte) (s : State) :
    (State.cardStore a v s).sdo = s.sdo := by
  simp [State.cardStore]

@[simp] theorem State.cardStore_sdi (a : Addr) (v : Byte) (s : State) :
    (State.cardStore a v s).sdi = s.sdi := by
  simp [State.cardStore]

@[simp] theorem State.cardStore_req (a : Addr) (v : Byte) (s : State) :
    (State.cardStore a v s).req = s.req := by
  simp [State.cardStore]

@[simp] theorem State.cardStore_dbell (a : Addr) (v : Byte) (s : State) :
    (State.cardStore a v s).dbell = s.dbell := by
  simp [State.cardStore]

@[simp] theorem State.cardStore_srAddr (a : Addr) (v : Byte) (s : State) :
    (State.cardStore a v s).srAddr = s.srAddr := by
  simp [State.cardStore]

@[simp] theorem State.cardStore_srData (a : Addr) (v : Byte) (s : State) :
    (State.cardStore a v s).srData = s.srData := by
  simp [State.cardStore]

@[simp] theorem State.cardStore_setting0 (a : Addr) (v : Byte) (s : State) :
    (State.cardStore a v s).setting0 = s.setting0 := by
  simp [State.cardStore]

@[simp] theorem State.cardStore_setting1 (a : Addr) (v : Byte) (s : State) :
    (State.cardStore a v s).setting1 = s.setting1 := by
  simp [State.cardStore]

@[simp] theorem State.cardStore_stream (a : Addr) (v : Byte) (s : State) :
    (State.cardStore a v s).stream = s.stream := by
  simp [State.cardStore]

@[simp] theorem State.cardStore_refused (a : Addr) (v : Byte) (s : State) :
    (State.cardStore a v s).refused = s.refused := by
  simp [State.cardStore]

@[simp] theorem State.cardStore_schedule (a : Addr) (v : Byte) (s : State) :
    (State.cardStore a v s).schedule = s.schedule := by
  simp [State.cardStore]

@[simp] theorem State.cardStore_hostShare (a : Addr) (v : Byte) (s : State) :
    (State.cardStore a v s).hostShare = s.hostShare := by
  simp [State.cardStore]

@[simp] theorem State.cardStore_endless (a : Addr) (v : Byte) (s : State) :
    (State.cardStore a v s).endless = s.endless := by
  simp [State.cardStore]

@[simp] theorem State.cardStore_moveDraws (a : Addr) (v : Byte) (s : State) :
    (State.cardStore a v s).moveDraws = s.moveDraws := by
  simp [State.cardStore]

@[simp] theorem State.cardStore_byteDraws (a : Addr) (v : Byte) (s : State) :
    (State.cardStore a v s).byteDraws = s.byteDraws := by
  simp [State.cardStore]

@[simp] theorem State.cardStore_edgeDraws (a : Addr) (v : Byte) (s : State) :
    (State.cardStore a v s).edgeDraws = s.edgeDraws := by
  simp [State.cardStore]

@[simp] theorem State.cardStore_frameOut (a : Addr) (v : Byte) (s : State) :
    (State.cardStore a v s).frameOut = s.frameOut := by
  simp [State.cardStore]

@[simp] theorem State.cardStore_frameIn (a : Addr) (v : Byte) (s : State) :
    (State.cardStore a v s).frameIn = s.frameIn := by
  simp [State.cardStore]

@[simp] theorem State.guestStore_cfg (a : Addr) (v : Byte) (s : State) :
    (State.guestStore a v s).cfg = s.cfg := by
  simp [State.guestStore]

@[simp] theorem State.guestStore_opA (a : Addr) (v : Byte) (s : State) :
    (State.guestStore a v s).opA = s.opA := by
  simp [State.guestStore]

@[simp] theorem State.guestStore_opD (a : Addr) (v : Byte) (s : State) :
    (State.guestStore a v s).opD = s.opD := by
  simp [State.guestStore]

@[simp] theorem State.guestStore_opN (a : Addr) (v : Byte) (s : State) :
    (State.guestStore a v s).opN = s.opN := by
  simp [State.guestStore]

@[simp] theorem State.guestStore_opS (a : Addr) (v : Byte) (s : State) :
    (State.guestStore a v s).opS = s.opS := by
  simp [State.guestStore]

@[simp] theorem State.guestStore_opT (a : Addr) (v : Byte) (s : State) :
    (State.guestStore a v s).opT = s.opT := by
  simp [State.guestStore]

@[simp] theorem State.guestStore_q (a : Addr) (v : Byte) (s : State) :
    (State.guestStore a v s).q = s.q := by
  simp [State.guestStore]

@[simp] theorem State.guestStore_qbuf (a : Addr) (v : Byte) (s : State) :
    (State.guestStore a v s).qbuf = s.qbuf := by
  simp [State.guestStore]

@[simp] theorem State.guestStore_qt (a : Addr) (v : Byte) (s : State) :
    (State.guestStore a v s).qt = s.qt := by
  simp [State.guestStore]

@[simp] theorem State.guestStore_cpos (a : Addr) (v : Byte) (s : State) :
    (State.guestStore a v s).cpos = s.cpos := by
  simp [State.guestStore]

@[simp] theorem State.guestStore_runstate (a : Addr) (v : Byte) (s : State) :
    (State.guestStore a v s).runstate = s.runstate := by
  simp [State.guestStore]

@[simp] theorem State.guestStore_arch (a : Addr) (v : Byte) (s : State) :
    (State.guestStore a v s).arch = s.arch := by
  simp [State.guestStore]

@[simp] theorem State.guestStore_speed (a : Addr) (v : Byte) (s : State) :
    (State.guestStore a v s).speed = s.speed := by
  simp [State.guestStore]

@[simp] theorem State.guestStore_tickArmed (a : Addr) (v : Byte) (s : State) :
    (State.guestStore a v s).tickArmed = s.tickArmed := by
  simp [State.guestStore]

@[simp] theorem State.guestStore_doorbellLatch (a : Addr) (v : Byte) (s : State) :
    (State.guestStore a v s).doorbellLatch = s.doorbellLatch := by
  simp [State.guestStore]

@[simp] theorem State.guestStore_dbPending (a : Addr) (v : Byte) (s : State) :
    (State.guestStore a v s).dbPending = s.dbPending := by
  simp [State.guestStore]

@[simp] theorem State.guestStore_ie (a : Addr) (v : Byte) (s : State) :
    (State.guestStore a v s).ie = s.ie := by
  simp [State.guestStore]

@[simp] theorem State.guestStore_doorbellIe (a : Addr) (v : Byte) (s : State) :
    (State.guestStore a v s).doorbellIe = s.doorbellIe := by
  simp [State.guestStore]

@[simp] theorem State.guestStore_initialised (a : Addr) (v : Byte) (s : State) :
    (State.guestStore a v s).initialised = s.initialised := by
  simp [State.guestStore]

@[simp] theorem State.guestStore_fault (a : Addr) (v : Byte) (s : State) :
    (State.guestStore a v s).fault = s.fault := by
  simp [State.guestStore]

@[simp] theorem State.guestStore_linkBusy (a : Addr) (v : Byte) (s : State) :
    (State.guestStore a v s).linkBusy = s.linkBusy := by
  simp [State.guestStore]

@[simp] theorem State.guestStore_arbPhase (a : Addr) (v : Byte) (s : State) :
    (State.guestStore a v s).arbPhase = s.arbPhase := by
  simp [State.guestStore]

@[simp] theorem State.guestStore_arbWasRunning (a : Addr) (v : Byte) (s : State) :
    (State.guestStore a v s).arbWasRunning = s.arbWasRunning := by
  simp [State.guestStore]

@[simp] theorem State.guestStore_archsel (a : Addr) (v : Byte) (s : State) :
    (State.guestStore a v s).archsel = s.archsel := by
  simp [State.guestStore]

@[simp] theorem State.guestStore_speedsel (a : Addr) (v : Byte) (s : State) :
    (State.guestStore a v s).speedsel = s.speedsel := by
  simp [State.guestStore]

@[simp] theorem State.guestStore_resetLine (a : Addr) (v : Byte) (s : State) :
    (State.guestStore a v s).resetLine = s.resetLine := by
  simp [State.guestStore]

@[simp] theorem State.guestStore_busen (a : Addr) (v : Byte) (s : State) :
    (State.guestStore a v s).busen = s.busen := by
  simp [State.guestStore]

@[simp] theorem State.guestStore_int (a : Addr) (v : Byte) (s : State) :
    (State.guestStore a v s).int = s.int := by
  simp [State.guestStore]

@[simp] theorem State.guestStore_ack (a : Addr) (v : Byte) (s : State) :
    (State.guestStore a v s).ack = s.ack := by
  simp [State.guestStore]

@[simp] theorem State.guestStore_aoe (a : Addr) (v : Byte) (s : State) :
    (State.guestStore a v s).aoe = s.aoe := by
  simp [State.guestStore]

@[simp] theorem State.guestStore_rwn (a : Addr) (v : Byte) (s : State) :
    (State.guestStore a v s).rwn = s.rwn := by
  simp [State.guestStore]

@[simp] theorem State.guestStore_latch (a : Addr) (v : Byte) (s : State) :
    (State.guestStore a v s).latch = s.latch := by
  simp [State.guestStore]

@[simp] theorem State.guestStore_sclk (a : Addr) (v : Byte) (s : State) :
    (State.guestStore a v s).sclk = s.sclk := by
  simp [State.guestStore]

@[simp] theorem State.guestStore_sdo (a : Addr) (v : Byte) (s : State) :
    (State.guestStore a v s).sdo = s.sdo := by
  simp [State.guestStore]

@[simp] theorem State.guestStore_sdi (a : Addr) (v : Byte) (s : State) :
    (State.guestStore a v s).sdi = s.sdi := by
  simp [State.guestStore]

@[simp] theorem State.guestStore_req (a : Addr) (v : Byte) (s : State) :
    (State.guestStore a v s).req = s.req := by
  simp [State.guestStore]

@[simp] theorem State.guestStore_dbell (a : Addr) (v : Byte) (s : State) :
    (State.guestStore a v s).dbell = s.dbell := by
  simp [State.guestStore]

@[simp] theorem State.guestStore_srAddr (a : Addr) (v : Byte) (s : State) :
    (State.guestStore a v s).srAddr = s.srAddr := by
  simp [State.guestStore]

@[simp] theorem State.guestStore_srData (a : Addr) (v : Byte) (s : State) :
    (State.guestStore a v s).srData = s.srData := by
  simp [State.guestStore]

@[simp] theorem State.guestStore_setting0 (a : Addr) (v : Byte) (s : State) :
    (State.guestStore a v s).setting0 = s.setting0 := by
  simp [State.guestStore]

@[simp] theorem State.guestStore_setting1 (a : Addr) (v : Byte) (s : State) :
    (State.guestStore a v s).setting1 = s.setting1 := by
  simp [State.guestStore]

@[simp] theorem State.guestStore_stream (a : Addr) (v : Byte) (s : State) :
    (State.guestStore a v s).stream = s.stream := by
  simp [State.guestStore]

@[simp] theorem State.guestStore_refused (a : Addr) (v : Byte) (s : State) :
    (State.guestStore a v s).refused = s.refused := by
  simp [State.guestStore]

@[simp] theorem State.guestStore_schedule (a : Addr) (v : Byte) (s : State) :
    (State.guestStore a v s).schedule = s.schedule := by
  simp [State.guestStore]

@[simp] theorem State.guestStore_hostShare (a : Addr) (v : Byte) (s : State) :
    (State.guestStore a v s).hostShare = s.hostShare := by
  simp [State.guestStore]

@[simp] theorem State.guestStore_endless (a : Addr) (v : Byte) (s : State) :
    (State.guestStore a v s).endless = s.endless := by
  simp [State.guestStore]

@[simp] theorem State.guestStore_moveDraws (a : Addr) (v : Byte) (s : State) :
    (State.guestStore a v s).moveDraws = s.moveDraws := by
  simp [State.guestStore]

@[simp] theorem State.guestStore_byteDraws (a : Addr) (v : Byte) (s : State) :
    (State.guestStore a v s).byteDraws = s.byteDraws := by
  simp [State.guestStore]

@[simp] theorem State.guestStore_edgeDraws (a : Addr) (v : Byte) (s : State) :
    (State.guestStore a v s).edgeDraws = s.edgeDraws := by
  simp [State.guestStore]

@[simp] theorem State.guestStore_frameOut (a : Addr) (v : Byte) (s : State) :
    (State.guestStore a v s).frameOut = s.frameOut := by
  simp [State.guestStore]

@[simp] theorem State.guestStore_frameIn (a : Addr) (v : Byte) (s : State) :
    (State.guestStore a v s).frameIn = s.frameIn := by
  simp [State.guestStore]

@[simp] theorem State.move_cfg (s : State) (m : Move) : (s.move m).cfg = s.cfg := by
  unfold State.move; split
  · cases m <;> simp [State.perform]
  · rfl

@[simp] theorem State.move_opA (s : State) (m : Move) : (s.move m).opA = s.opA := by
  unfold State.move; split
  · cases m <;> simp [State.perform]
  · rfl

@[simp] theorem State.move_opD (s : State) (m : Move) : (s.move m).opD = s.opD := by
  unfold State.move; split
  · cases m <;> simp [State.perform]
  · rfl

@[simp] theorem State.move_opN (s : State) (m : Move) : (s.move m).opN = s.opN := by
  unfold State.move; split
  · cases m <;> simp [State.perform]
  · rfl

@[simp] theorem State.move_opS (s : State) (m : Move) : (s.move m).opS = s.opS := by
  unfold State.move; split
  · cases m <;> simp [State.perform]
  · rfl

@[simp] theorem State.move_opT (s : State) (m : Move) : (s.move m).opT = s.opT := by
  unfold State.move; split
  · cases m <;> simp [State.perform]
  · rfl

@[simp] theorem State.move_q (s : State) (m : Move) : (s.move m).q = s.q := by
  unfold State.move; split
  · cases m <;> simp [State.perform]
  · rfl

@[simp] theorem State.move_qbuf (s : State) (m : Move) : (s.move m).qbuf = s.qbuf := by
  unfold State.move; split
  · cases m <;> simp [State.perform]
  · rfl

@[simp] theorem State.move_qt (s : State) (m : Move) : (s.move m).qt = s.qt := by
  unfold State.move; split
  · cases m <;> simp [State.perform]
  · rfl

@[simp] theorem State.move_cpos (s : State) (m : Move) : (s.move m).cpos = s.cpos := by
  unfold State.move; split
  · cases m <;> simp [State.perform]
  · rfl

@[simp] theorem State.move_runstate (s : State) (m : Move) : (s.move m).runstate = s.runstate := by
  unfold State.move; split
  · cases m <;> simp [State.perform]
  · rfl

@[simp] theorem State.move_arch (s : State) (m : Move) : (s.move m).arch = s.arch := by
  unfold State.move; split
  · cases m <;> simp [State.perform]
  · rfl

@[simp] theorem State.move_speed (s : State) (m : Move) : (s.move m).speed = s.speed := by
  unfold State.move; split
  · cases m <;> simp [State.perform]
  · rfl

@[simp] theorem State.move_tickArmed (s : State) (m : Move) : (s.move m).tickArmed = s.tickArmed := by
  unfold State.move; split
  · cases m <;> simp [State.perform]
  · rfl

@[simp] theorem State.move_ie (s : State) (m : Move) : (s.move m).ie = s.ie := by
  unfold State.move; split
  · cases m <;> simp [State.perform]
  · rfl

@[simp] theorem State.move_doorbellIe (s : State) (m : Move) : (s.move m).doorbellIe = s.doorbellIe := by
  unfold State.move; split
  · cases m <;> simp [State.perform]
  · rfl

@[simp] theorem State.move_initialised (s : State) (m : Move) : (s.move m).initialised = s.initialised := by
  unfold State.move; split
  · cases m <;> simp [State.perform]
  · rfl

@[simp] theorem State.move_fault (s : State) (m : Move) : (s.move m).fault = s.fault := by
  unfold State.move; split
  · cases m <;> simp [State.perform]
  · rfl

@[simp] theorem State.move_linkBusy (s : State) (m : Move) : (s.move m).linkBusy = s.linkBusy := by
  unfold State.move; split
  · cases m <;> simp [State.perform]
  · rfl

@[simp] theorem State.move_arbPhase (s : State) (m : Move) : (s.move m).arbPhase = s.arbPhase := by
  unfold State.move; split
  · cases m <;> simp [State.perform]
  · rfl

@[simp] theorem State.move_arbWasRunning (s : State) (m : Move) : (s.move m).arbWasRunning = s.arbWasRunning := by
  unfold State.move; split
  · cases m <;> simp [State.perform]
  · rfl

@[simp] theorem State.move_archsel (s : State) (m : Move) : (s.move m).archsel = s.archsel := by
  unfold State.move; split
  · cases m <;> simp [State.perform]
  · rfl

@[simp] theorem State.move_speedsel (s : State) (m : Move) : (s.move m).speedsel = s.speedsel := by
  unfold State.move; split
  · cases m <;> simp [State.perform]
  · rfl

@[simp] theorem State.move_resetLine (s : State) (m : Move) : (s.move m).resetLine = s.resetLine := by
  unfold State.move; split
  · cases m <;> simp [State.perform]
  · rfl

@[simp] theorem State.move_busen (s : State) (m : Move) : (s.move m).busen = s.busen := by
  unfold State.move; split
  · cases m <;> simp [State.perform]
  · rfl

@[simp] theorem State.move_ack (s : State) (m : Move) : (s.move m).ack = s.ack := by
  unfold State.move; split
  · cases m <;> simp [State.perform]
  · rfl

@[simp] theorem State.move_aoe (s : State) (m : Move) : (s.move m).aoe = s.aoe := by
  unfold State.move; split
  · cases m <;> simp [State.perform]
  · rfl

@[simp] theorem State.move_rwn (s : State) (m : Move) : (s.move m).rwn = s.rwn := by
  unfold State.move; split
  · cases m <;> simp [State.perform]
  · rfl

@[simp] theorem State.move_latch (s : State) (m : Move) : (s.move m).latch = s.latch := by
  unfold State.move; split
  · cases m <;> simp [State.perform]
  · rfl

@[simp] theorem State.move_sclk (s : State) (m : Move) : (s.move m).sclk = s.sclk := by
  unfold State.move; split
  · cases m <;> simp [State.perform]
  · rfl

@[simp] theorem State.move_sdo (s : State) (m : Move) : (s.move m).sdo = s.sdo := by
  unfold State.move; split
  · cases m <;> simp [State.perform]
  · rfl

@[simp] theorem State.move_sdi (s : State) (m : Move) : (s.move m).sdi = s.sdi := by
  unfold State.move; split
  · cases m <;> simp [State.perform]
  · rfl

@[simp] theorem State.move_srAddr (s : State) (m : Move) : (s.move m).srAddr = s.srAddr := by
  unfold State.move; split
  · cases m <;> simp [State.perform]
  · rfl

@[simp] theorem State.move_srData (s : State) (m : Move) : (s.move m).srData = s.srData := by
  unfold State.move; split
  · cases m <;> simp [State.perform]
  · rfl

@[simp] theorem State.move_setting0 (s : State) (m : Move) : (s.move m).setting0 = s.setting0 := by
  unfold State.move; split
  · cases m <;> simp [State.perform]
  · rfl

@[simp] theorem State.move_setting1 (s : State) (m : Move) : (s.move m).setting1 = s.setting1 := by
  unfold State.move; split
  · cases m <;> simp [State.perform]
  · rfl

@[simp] theorem State.move_stream (s : State) (m : Move) : (s.move m).stream = s.stream := by
  unfold State.move; split
  · cases m <;> simp [State.perform]
  · rfl

@[simp] theorem State.move_refused (s : State) (m : Move) : (s.move m).refused = s.refused := by
  unfold State.move; split
  · cases m <;> simp [State.perform]
  · rfl

@[simp] theorem State.move_schedule (s : State) (m : Move) : (s.move m).schedule = s.schedule := by
  unfold State.move; split
  · cases m <;> simp [State.perform]
  · rfl

@[simp] theorem State.move_hostShare (s : State) (m : Move) : (s.move m).hostShare = s.hostShare := by
  unfold State.move; split
  · cases m <;> simp [State.perform]
  · rfl

@[simp] theorem State.move_endless (s : State) (m : Move) : (s.move m).endless = s.endless := by
  unfold State.move; split
  · cases m <;> simp [State.perform]
  · rfl

@[simp] theorem State.move_moveDraws (s : State) (m : Move) : (s.move m).moveDraws = s.moveDraws := by
  unfold State.move; split
  · cases m <;> simp [State.perform]
  · rfl

@[simp] theorem State.move_byteDraws (s : State) (m : Move) : (s.move m).byteDraws = s.byteDraws := by
  unfold State.move; split
  · cases m <;> simp [State.perform]
  · rfl

@[simp] theorem State.move_frameOut (s : State) (m : Move) : (s.move m).frameOut = s.frameOut := by
  unfold State.move; split
  · cases m <;> simp [State.perform]
  · rfl

@[simp] theorem State.move_frameIn (s : State) (m : Move) : (s.move m).frameIn = s.frameIn := by
  unfold State.move; split
  · cases m <;> simp [State.perform]
  · rfl

@[simp] theorem State.moves_cfg (ms : List Move) (s : State) :
    (State.moves ms s).cfg = s.cfg := by
  induction ms generalizing s with
  | nil => rfl
  | cons m ms ih => simp [State.moves, ih]

@[simp] theorem State.moves_opA (ms : List Move) (s : State) :
    (State.moves ms s).opA = s.opA := by
  induction ms generalizing s with
  | nil => rfl
  | cons m ms ih => simp [State.moves, ih]

@[simp] theorem State.moves_opD (ms : List Move) (s : State) :
    (State.moves ms s).opD = s.opD := by
  induction ms generalizing s with
  | nil => rfl
  | cons m ms ih => simp [State.moves, ih]

@[simp] theorem State.moves_opN (ms : List Move) (s : State) :
    (State.moves ms s).opN = s.opN := by
  induction ms generalizing s with
  | nil => rfl
  | cons m ms ih => simp [State.moves, ih]

@[simp] theorem State.moves_opS (ms : List Move) (s : State) :
    (State.moves ms s).opS = s.opS := by
  induction ms generalizing s with
  | nil => rfl
  | cons m ms ih => simp [State.moves, ih]

@[simp] theorem State.moves_opT (ms : List Move) (s : State) :
    (State.moves ms s).opT = s.opT := by
  induction ms generalizing s with
  | nil => rfl
  | cons m ms ih => simp [State.moves, ih]

@[simp] theorem State.moves_q (ms : List Move) (s : State) :
    (State.moves ms s).q = s.q := by
  induction ms generalizing s with
  | nil => rfl
  | cons m ms ih => simp [State.moves, ih]

@[simp] theorem State.moves_qbuf (ms : List Move) (s : State) :
    (State.moves ms s).qbuf = s.qbuf := by
  induction ms generalizing s with
  | nil => rfl
  | cons m ms ih => simp [State.moves, ih]

@[simp] theorem State.moves_qt (ms : List Move) (s : State) :
    (State.moves ms s).qt = s.qt := by
  induction ms generalizing s with
  | nil => rfl
  | cons m ms ih => simp [State.moves, ih]

@[simp] theorem State.moves_cpos (ms : List Move) (s : State) :
    (State.moves ms s).cpos = s.cpos := by
  induction ms generalizing s with
  | nil => rfl
  | cons m ms ih => simp [State.moves, ih]

@[simp] theorem State.moves_runstate (ms : List Move) (s : State) :
    (State.moves ms s).runstate = s.runstate := by
  induction ms generalizing s with
  | nil => rfl
  | cons m ms ih => simp [State.moves, ih]

@[simp] theorem State.moves_arch (ms : List Move) (s : State) :
    (State.moves ms s).arch = s.arch := by
  induction ms generalizing s with
  | nil => rfl
  | cons m ms ih => simp [State.moves, ih]

@[simp] theorem State.moves_speed (ms : List Move) (s : State) :
    (State.moves ms s).speed = s.speed := by
  induction ms generalizing s with
  | nil => rfl
  | cons m ms ih => simp [State.moves, ih]

@[simp] theorem State.moves_tickArmed (ms : List Move) (s : State) :
    (State.moves ms s).tickArmed = s.tickArmed := by
  induction ms generalizing s with
  | nil => rfl
  | cons m ms ih => simp [State.moves, ih]

@[simp] theorem State.moves_ie (ms : List Move) (s : State) :
    (State.moves ms s).ie = s.ie := by
  induction ms generalizing s with
  | nil => rfl
  | cons m ms ih => simp [State.moves, ih]

@[simp] theorem State.moves_doorbellIe (ms : List Move) (s : State) :
    (State.moves ms s).doorbellIe = s.doorbellIe := by
  induction ms generalizing s with
  | nil => rfl
  | cons m ms ih => simp [State.moves, ih]

@[simp] theorem State.moves_initialised (ms : List Move) (s : State) :
    (State.moves ms s).initialised = s.initialised := by
  induction ms generalizing s with
  | nil => rfl
  | cons m ms ih => simp [State.moves, ih]

@[simp] theorem State.moves_fault (ms : List Move) (s : State) :
    (State.moves ms s).fault = s.fault := by
  induction ms generalizing s with
  | nil => rfl
  | cons m ms ih => simp [State.moves, ih]

@[simp] theorem State.moves_linkBusy (ms : List Move) (s : State) :
    (State.moves ms s).linkBusy = s.linkBusy := by
  induction ms generalizing s with
  | nil => rfl
  | cons m ms ih => simp [State.moves, ih]

@[simp] theorem State.moves_arbPhase (ms : List Move) (s : State) :
    (State.moves ms s).arbPhase = s.arbPhase := by
  induction ms generalizing s with
  | nil => rfl
  | cons m ms ih => simp [State.moves, ih]

@[simp] theorem State.moves_arbWasRunning (ms : List Move) (s : State) :
    (State.moves ms s).arbWasRunning = s.arbWasRunning := by
  induction ms generalizing s with
  | nil => rfl
  | cons m ms ih => simp [State.moves, ih]

@[simp] theorem State.moves_archsel (ms : List Move) (s : State) :
    (State.moves ms s).archsel = s.archsel := by
  induction ms generalizing s with
  | nil => rfl
  | cons m ms ih => simp [State.moves, ih]

@[simp] theorem State.moves_speedsel (ms : List Move) (s : State) :
    (State.moves ms s).speedsel = s.speedsel := by
  induction ms generalizing s with
  | nil => rfl
  | cons m ms ih => simp [State.moves, ih]

@[simp] theorem State.moves_resetLine (ms : List Move) (s : State) :
    (State.moves ms s).resetLine = s.resetLine := by
  induction ms generalizing s with
  | nil => rfl
  | cons m ms ih => simp [State.moves, ih]

@[simp] theorem State.moves_busen (ms : List Move) (s : State) :
    (State.moves ms s).busen = s.busen := by
  induction ms generalizing s with
  | nil => rfl
  | cons m ms ih => simp [State.moves, ih]

@[simp] theorem State.moves_ack (ms : List Move) (s : State) :
    (State.moves ms s).ack = s.ack := by
  induction ms generalizing s with
  | nil => rfl
  | cons m ms ih => simp [State.moves, ih]

@[simp] theorem State.moves_aoe (ms : List Move) (s : State) :
    (State.moves ms s).aoe = s.aoe := by
  induction ms generalizing s with
  | nil => rfl
  | cons m ms ih => simp [State.moves, ih]

@[simp] theorem State.moves_rwn (ms : List Move) (s : State) :
    (State.moves ms s).rwn = s.rwn := by
  induction ms generalizing s with
  | nil => rfl
  | cons m ms ih => simp [State.moves, ih]

@[simp] theorem State.moves_latch (ms : List Move) (s : State) :
    (State.moves ms s).latch = s.latch := by
  induction ms generalizing s with
  | nil => rfl
  | cons m ms ih => simp [State.moves, ih]

@[simp] theorem State.moves_sclk (ms : List Move) (s : State) :
    (State.moves ms s).sclk = s.sclk := by
  induction ms generalizing s with
  | nil => rfl
  | cons m ms ih => simp [State.moves, ih]

@[simp] theorem State.moves_sdo (ms : List Move) (s : State) :
    (State.moves ms s).sdo = s.sdo := by
  induction ms generalizing s with
  | nil => rfl
  | cons m ms ih => simp [State.moves, ih]

@[simp] theorem State.moves_sdi (ms : List Move) (s : State) :
    (State.moves ms s).sdi = s.sdi := by
  induction ms generalizing s with
  | nil => rfl
  | cons m ms ih => simp [State.moves, ih]

@[simp] theorem State.moves_srAddr (ms : List Move) (s : State) :
    (State.moves ms s).srAddr = s.srAddr := by
  induction ms generalizing s with
  | nil => rfl
  | cons m ms ih => simp [State.moves, ih]

@[simp] theorem State.moves_srData (ms : List Move) (s : State) :
    (State.moves ms s).srData = s.srData := by
  induction ms generalizing s with
  | nil => rfl
  | cons m ms ih => simp [State.moves, ih]

@[simp] theorem State.moves_setting0 (ms : List Move) (s : State) :
    (State.moves ms s).setting0 = s.setting0 := by
  induction ms generalizing s with
  | nil => rfl
  | cons m ms ih => simp [State.moves, ih]

@[simp] theorem State.moves_setting1 (ms : List Move) (s : State) :
    (State.moves ms s).setting1 = s.setting1 := by
  induction ms generalizing s with
  | nil => rfl
  | cons m ms ih => simp [State.moves, ih]

@[simp] theorem State.moves_stream (ms : List Move) (s : State) :
    (State.moves ms s).stream = s.stream := by
  induction ms generalizing s with
  | nil => rfl
  | cons m ms ih => simp [State.moves, ih]

@[simp] theorem State.moves_refused (ms : List Move) (s : State) :
    (State.moves ms s).refused = s.refused := by
  induction ms generalizing s with
  | nil => rfl
  | cons m ms ih => simp [State.moves, ih]

@[simp] theorem State.moves_schedule (ms : List Move) (s : State) :
    (State.moves ms s).schedule = s.schedule := by
  induction ms generalizing s with
  | nil => rfl
  | cons m ms ih => simp [State.moves, ih]

@[simp] theorem State.moves_hostShare (ms : List Move) (s : State) :
    (State.moves ms s).hostShare = s.hostShare := by
  induction ms generalizing s with
  | nil => rfl
  | cons m ms ih => simp [State.moves, ih]

@[simp] theorem State.moves_endless (ms : List Move) (s : State) :
    (State.moves ms s).endless = s.endless := by
  induction ms generalizing s with
  | nil => rfl
  | cons m ms ih => simp [State.moves, ih]

@[simp] theorem State.moves_moveDraws (ms : List Move) (s : State) :
    (State.moves ms s).moveDraws = s.moveDraws := by
  induction ms generalizing s with
  | nil => rfl
  | cons m ms ih => simp [State.moves, ih]

@[simp] theorem State.moves_byteDraws (ms : List Move) (s : State) :
    (State.moves ms s).byteDraws = s.byteDraws := by
  induction ms generalizing s with
  | nil => rfl
  | cons m ms ih => simp [State.moves, ih]

@[simp] theorem State.moves_frameOut (ms : List Move) (s : State) :
    (State.moves ms s).frameOut = s.frameOut := by
  induction ms generalizing s with
  | nil => rfl
  | cons m ms ih => simp [State.moves, ih]

@[simp] theorem State.moves_frameIn (ms : List Move) (s : State) :
    (State.moves ms s).frameIn = s.frameIn := by
  induction ms generalizing s with
  | nil => rfl
  | cons m ms ih => simp [State.moves, ih]

@[simp] theorem State.others_cfg (s : State) : s.others.cfg = s.cfg := by
  unfold State.others; split <;> simp

@[simp] theorem State.others_opA (s : State) : s.others.opA = s.opA := by
  unfold State.others; split <;> simp

@[simp] theorem State.others_opD (s : State) : s.others.opD = s.opD := by
  unfold State.others; split <;> simp

@[simp] theorem State.others_opN (s : State) : s.others.opN = s.opN := by
  unfold State.others; split <;> simp

@[simp] theorem State.others_opS (s : State) : s.others.opS = s.opS := by
  unfold State.others; split <;> simp

@[simp] theorem State.others_opT (s : State) : s.others.opT = s.opT := by
  unfold State.others; split <;> simp

@[simp] theorem State.others_q (s : State) : s.others.q = s.q := by
  unfold State.others; split <;> simp

@[simp] theorem State.others_qbuf (s : State) : s.others.qbuf = s.qbuf := by
  unfold State.others; split <;> simp

@[simp] theorem State.others_qt (s : State) : s.others.qt = s.qt := by
  unfold State.others; split <;> simp

@[simp] theorem State.others_cpos (s : State) : s.others.cpos = s.cpos := by
  unfold State.others; split <;> simp

@[simp] theorem State.others_runstate (s : State) : s.others.runstate = s.runstate := by
  unfold State.others; split <;> simp

@[simp] theorem State.others_arch (s : State) : s.others.arch = s.arch := by
  unfold State.others; split <;> simp

@[simp] theorem State.others_speed (s : State) : s.others.speed = s.speed := by
  unfold State.others; split <;> simp

@[simp] theorem State.others_tickArmed (s : State) : s.others.tickArmed = s.tickArmed := by
  unfold State.others; split <;> simp

@[simp] theorem State.others_ie (s : State) : s.others.ie = s.ie := by
  unfold State.others; split <;> simp

@[simp] theorem State.others_doorbellIe (s : State) : s.others.doorbellIe = s.doorbellIe := by
  unfold State.others; split <;> simp

@[simp] theorem State.others_initialised (s : State) : s.others.initialised = s.initialised := by
  unfold State.others; split <;> simp

@[simp] theorem State.others_fault (s : State) : s.others.fault = s.fault := by
  unfold State.others; split <;> simp

@[simp] theorem State.others_linkBusy (s : State) : s.others.linkBusy = s.linkBusy := by
  unfold State.others; split <;> simp

@[simp] theorem State.others_arbPhase (s : State) : s.others.arbPhase = s.arbPhase := by
  unfold State.others; split <;> simp

@[simp] theorem State.others_arbWasRunning (s : State) : s.others.arbWasRunning = s.arbWasRunning := by
  unfold State.others; split <;> simp

@[simp] theorem State.others_archsel (s : State) : s.others.archsel = s.archsel := by
  unfold State.others; split <;> simp

@[simp] theorem State.others_speedsel (s : State) : s.others.speedsel = s.speedsel := by
  unfold State.others; split <;> simp

@[simp] theorem State.others_resetLine (s : State) : s.others.resetLine = s.resetLine := by
  unfold State.others; split <;> simp

@[simp] theorem State.others_busen (s : State) : s.others.busen = s.busen := by
  unfold State.others; split <;> simp

@[simp] theorem State.others_ack (s : State) : s.others.ack = s.ack := by
  unfold State.others; split <;> simp

@[simp] theorem State.others_aoe (s : State) : s.others.aoe = s.aoe := by
  unfold State.others; split <;> simp

@[simp] theorem State.others_rwn (s : State) : s.others.rwn = s.rwn := by
  unfold State.others; split <;> simp

@[simp] theorem State.others_latch (s : State) : s.others.latch = s.latch := by
  unfold State.others; split <;> simp

@[simp] theorem State.others_sclk (s : State) : s.others.sclk = s.sclk := by
  unfold State.others; split <;> simp

@[simp] theorem State.others_sdo (s : State) : s.others.sdo = s.sdo := by
  unfold State.others; split <;> simp

@[simp] theorem State.others_sdi (s : State) : s.others.sdi = s.sdi := by
  unfold State.others; split <;> simp

@[simp] theorem State.others_srAddr (s : State) : s.others.srAddr = s.srAddr := by
  unfold State.others; split <;> simp

@[simp] theorem State.others_srData (s : State) : s.others.srData = s.srData := by
  unfold State.others; split <;> simp

@[simp] theorem State.others_setting0 (s : State) : s.others.setting0 = s.setting0 := by
  unfold State.others; split <;> simp

@[simp] theorem State.others_setting1 (s : State) : s.others.setting1 = s.setting1 := by
  unfold State.others; split <;> simp

@[simp] theorem State.others_stream (s : State) : s.others.stream = s.stream := by
  unfold State.others; split <;> simp

@[simp] theorem State.others_refused (s : State) : s.others.refused = s.refused := by
  unfold State.others; split <;> simp

@[simp] theorem State.others_hostShare (s : State) : s.others.hostShare = s.hostShare := by
  unfold State.others; split <;> simp

@[simp] theorem State.others_endless (s : State) : s.others.endless = s.endless := by
  unfold State.others; split <;> simp

@[simp] theorem State.others_byteDraws (s : State) : s.others.byteDraws = s.byteDraws := by
  unfold State.others; split <;> simp

@[simp] theorem State.others_frameOut (s : State) : s.others.frameOut = s.frameOut := by
  unfold State.others; split <;> simp

@[simp] theorem State.others_frameIn (s : State) : s.others.frameIn = s.frameIn := by
  unfold State.others; split <;> simp

@[simp] theorem State.waits_cfg (k : Nat) (s : State) : (State.waits k s).cfg = s.cfg := by
  induction k generalizing s with
  | zero => rfl
  | succ k ih => simp [State.waits, ih]

@[simp] theorem State.waits_opA (k : Nat) (s : State) : (State.waits k s).opA = s.opA := by
  induction k generalizing s with
  | zero => rfl
  | succ k ih => simp [State.waits, ih]

@[simp] theorem State.waits_opD (k : Nat) (s : State) : (State.waits k s).opD = s.opD := by
  induction k generalizing s with
  | zero => rfl
  | succ k ih => simp [State.waits, ih]

@[simp] theorem State.waits_opN (k : Nat) (s : State) : (State.waits k s).opN = s.opN := by
  induction k generalizing s with
  | zero => rfl
  | succ k ih => simp [State.waits, ih]

@[simp] theorem State.waits_opS (k : Nat) (s : State) : (State.waits k s).opS = s.opS := by
  induction k generalizing s with
  | zero => rfl
  | succ k ih => simp [State.waits, ih]

@[simp] theorem State.waits_opT (k : Nat) (s : State) : (State.waits k s).opT = s.opT := by
  induction k generalizing s with
  | zero => rfl
  | succ k ih => simp [State.waits, ih]

@[simp] theorem State.waits_q (k : Nat) (s : State) : (State.waits k s).q = s.q := by
  induction k generalizing s with
  | zero => rfl
  | succ k ih => simp [State.waits, ih]

@[simp] theorem State.waits_qbuf (k : Nat) (s : State) : (State.waits k s).qbuf = s.qbuf := by
  induction k generalizing s with
  | zero => rfl
  | succ k ih => simp [State.waits, ih]

@[simp] theorem State.waits_qt (k : Nat) (s : State) : (State.waits k s).qt = s.qt := by
  induction k generalizing s with
  | zero => rfl
  | succ k ih => simp [State.waits, ih]

@[simp] theorem State.waits_cpos (k : Nat) (s : State) : (State.waits k s).cpos = s.cpos := by
  induction k generalizing s with
  | zero => rfl
  | succ k ih => simp [State.waits, ih]

@[simp] theorem State.waits_runstate (k : Nat) (s : State) : (State.waits k s).runstate = s.runstate := by
  induction k generalizing s with
  | zero => rfl
  | succ k ih => simp [State.waits, ih]

@[simp] theorem State.waits_arch (k : Nat) (s : State) : (State.waits k s).arch = s.arch := by
  induction k generalizing s with
  | zero => rfl
  | succ k ih => simp [State.waits, ih]

@[simp] theorem State.waits_speed (k : Nat) (s : State) : (State.waits k s).speed = s.speed := by
  induction k generalizing s with
  | zero => rfl
  | succ k ih => simp [State.waits, ih]

@[simp] theorem State.waits_tickArmed (k : Nat) (s : State) : (State.waits k s).tickArmed = s.tickArmed := by
  induction k generalizing s with
  | zero => rfl
  | succ k ih => simp [State.waits, ih]

@[simp] theorem State.waits_ie (k : Nat) (s : State) : (State.waits k s).ie = s.ie := by
  induction k generalizing s with
  | zero => rfl
  | succ k ih => simp [State.waits, ih]

@[simp] theorem State.waits_doorbellIe (k : Nat) (s : State) : (State.waits k s).doorbellIe = s.doorbellIe := by
  induction k generalizing s with
  | zero => rfl
  | succ k ih => simp [State.waits, ih]

@[simp] theorem State.waits_initialised (k : Nat) (s : State) : (State.waits k s).initialised = s.initialised := by
  induction k generalizing s with
  | zero => rfl
  | succ k ih => simp [State.waits, ih]

@[simp] theorem State.waits_fault (k : Nat) (s : State) : (State.waits k s).fault = s.fault := by
  induction k generalizing s with
  | zero => rfl
  | succ k ih => simp [State.waits, ih]

@[simp] theorem State.waits_linkBusy (k : Nat) (s : State) : (State.waits k s).linkBusy = s.linkBusy := by
  induction k generalizing s with
  | zero => rfl
  | succ k ih => simp [State.waits, ih]

@[simp] theorem State.waits_arbPhase (k : Nat) (s : State) : (State.waits k s).arbPhase = s.arbPhase := by
  induction k generalizing s with
  | zero => rfl
  | succ k ih => simp [State.waits, ih]

@[simp] theorem State.waits_arbWasRunning (k : Nat) (s : State) : (State.waits k s).arbWasRunning = s.arbWasRunning := by
  induction k generalizing s with
  | zero => rfl
  | succ k ih => simp [State.waits, ih]

@[simp] theorem State.waits_archsel (k : Nat) (s : State) : (State.waits k s).archsel = s.archsel := by
  induction k generalizing s with
  | zero => rfl
  | succ k ih => simp [State.waits, ih]

@[simp] theorem State.waits_speedsel (k : Nat) (s : State) : (State.waits k s).speedsel = s.speedsel := by
  induction k generalizing s with
  | zero => rfl
  | succ k ih => simp [State.waits, ih]

@[simp] theorem State.waits_resetLine (k : Nat) (s : State) : (State.waits k s).resetLine = s.resetLine := by
  induction k generalizing s with
  | zero => rfl
  | succ k ih => simp [State.waits, ih]

@[simp] theorem State.waits_busen (k : Nat) (s : State) : (State.waits k s).busen = s.busen := by
  induction k generalizing s with
  | zero => rfl
  | succ k ih => simp [State.waits, ih]

@[simp] theorem State.waits_ack (k : Nat) (s : State) : (State.waits k s).ack = s.ack := by
  induction k generalizing s with
  | zero => rfl
  | succ k ih => simp [State.waits, ih]

@[simp] theorem State.waits_aoe (k : Nat) (s : State) : (State.waits k s).aoe = s.aoe := by
  induction k generalizing s with
  | zero => rfl
  | succ k ih => simp [State.waits, ih]

@[simp] theorem State.waits_rwn (k : Nat) (s : State) : (State.waits k s).rwn = s.rwn := by
  induction k generalizing s with
  | zero => rfl
  | succ k ih => simp [State.waits, ih]

@[simp] theorem State.waits_latch (k : Nat) (s : State) : (State.waits k s).latch = s.latch := by
  induction k generalizing s with
  | zero => rfl
  | succ k ih => simp [State.waits, ih]

@[simp] theorem State.waits_sclk (k : Nat) (s : State) : (State.waits k s).sclk = s.sclk := by
  induction k generalizing s with
  | zero => rfl
  | succ k ih => simp [State.waits, ih]

@[simp] theorem State.waits_sdo (k : Nat) (s : State) : (State.waits k s).sdo = s.sdo := by
  induction k generalizing s with
  | zero => rfl
  | succ k ih => simp [State.waits, ih]

@[simp] theorem State.waits_sdi (k : Nat) (s : State) : (State.waits k s).sdi = s.sdi := by
  induction k generalizing s with
  | zero => rfl
  | succ k ih => simp [State.waits, ih]

@[simp] theorem State.waits_srAddr (k : Nat) (s : State) : (State.waits k s).srAddr = s.srAddr := by
  induction k generalizing s with
  | zero => rfl
  | succ k ih => simp [State.waits, ih]

@[simp] theorem State.waits_srData (k : Nat) (s : State) : (State.waits k s).srData = s.srData := by
  induction k generalizing s with
  | zero => rfl
  | succ k ih => simp [State.waits, ih]

@[simp] theorem State.waits_setting0 (k : Nat) (s : State) : (State.waits k s).setting0 = s.setting0 := by
  induction k generalizing s with
  | zero => rfl
  | succ k ih => simp [State.waits, ih]

@[simp] theorem State.waits_setting1 (k : Nat) (s : State) : (State.waits k s).setting1 = s.setting1 := by
  induction k generalizing s with
  | zero => rfl
  | succ k ih => simp [State.waits, ih]

@[simp] theorem State.waits_stream (k : Nat) (s : State) : (State.waits k s).stream = s.stream := by
  induction k generalizing s with
  | zero => rfl
  | succ k ih => simp [State.waits, ih]

@[simp] theorem State.waits_refused (k : Nat) (s : State) : (State.waits k s).refused = s.refused := by
  induction k generalizing s with
  | zero => rfl
  | succ k ih => simp [State.waits, ih]

@[simp] theorem State.waits_hostShare (k : Nat) (s : State) : (State.waits k s).hostShare = s.hostShare := by
  induction k generalizing s with
  | zero => rfl
  | succ k ih => simp [State.waits, ih]

@[simp] theorem State.waits_endless (k : Nat) (s : State) : (State.waits k s).endless = s.endless := by
  induction k generalizing s with
  | zero => rfl
  | succ k ih => simp [State.waits, ih]

@[simp] theorem State.waits_byteDraws (k : Nat) (s : State) : (State.waits k s).byteDraws = s.byteDraws := by
  induction k generalizing s with
  | zero => rfl
  | succ k ih => simp [State.waits, ih]

@[simp] theorem State.waits_frameOut (k : Nat) (s : State) : (State.waits k s).frameOut = s.frameOut := by
  induction k generalizing s with
  | zero => rfl
  | succ k ih => simp [State.waits, ih]

@[simp] theorem State.waits_frameIn (k : Nat) (s : State) : (State.waits k s).frameIn = s.frameIn := by
  induction k generalizing s with
  | zero => rfl
  | succ k ih => simp [State.waits, ih]

end Sys2Proof.Machine
end

