-- ==== Sys2Proof/Laws/Agents.lean ====
section
/-! SUPPORT. Everything a boundary and a host's turn can do: induction principles, the host's share, the
memory a boundary can change, the events it adds, and the fields only the other agents write. -/

namespace Sys2Proof.Machine

open Sys2Proof.Safety

/-! ### Induction principles -/

/-- What every enabled step of another agent keeps, a boundary keeps. -/
theorem State.others_induct {P : State → Prop} (sched : ∀ s l, P s → P (State.setSchedule l s))
    (draw : ∀ s : State, P s → P s.useMoveDraw)
    (perform : ∀ s m, s.enabled m = true → P s → P (s.perform m)) {s : State} (h : P s) :
    P s.others := by
  have hmoves : ∀ (ms : List Move) (s : State), P s → P (State.moves ms s) := by
    intro ms
    induction ms with
    | nil => intro s h; exact h
    | cons m ms ih =>
      intro s h
      refine ih _ ?_
      unfold State.move
      split
      · next he => exact perform s m he h
      · exact h
  unfold State.others
  split
  · exact hmoves _ _ (sched _ _ h)
  · exact hmoves _ _ (draw _ h)
  · exact h

/-- What every boundary keeps, any number of boundaries keeps. -/
theorem State.waits_induct {P : State → Prop} (others : ∀ s, P s → P s.others) (k : Nat) {s : State}
    (h : P s) : P (State.waits k s) := by
  induction k generalizing s with
  | zero => exact h
  | succ k ih => exact ih (others s h)

/-! ### Results -/

/-- A property of the state a command has come to, whether it goes on or not. -/
def Result.Holds {α : Type} (P : State → Prop) : Result α → Prop
  | .ok _ s => P s
  | .stop s => P s

@[simp] theorem Result.bind_ok {α β : Type} (x : α) (s : State) (k : α → State → Result β) :
    (Result.ok x s).bind k = k x s := rfl

@[simp] theorem Result.bind_stop {α β : Type} (s : State) (k : α → State → Result β) :
    (Result.stop s : Result α).bind k = .stop s := rfl

theorem Result.bind_assoc {α β γ : Type} (r : Result α) (k : α → State → Result β)
    (m : β → State → Result γ) : (r.bind k).bind m = r.bind fun x s => (k x s).bind m := by
  cases r <;> rfl

@[simp] theorem Result.finish_ok (s : State) : (Result.ok () s).finish = .next s.complete := rfl

@[simp] theorem Result.finish_stop (s : State) : (Result.stop s).finish = .next s := rfl

@[simp] theorem Result.pause_ok (s : State) : (Result.ok () s).pause = .next s := rfl

@[simp] theorem Result.pause_stop (s : State) : (Result.stop s).pause = .next s := rfl

/-- What holds where a command has come to, and is kept by what follows, holds where that ends. -/
theorem Result.Holds.bind {α β : Type} {P : State → Prop} {r : Result α}
    {k : α → State → Result β} (h : r.Holds P) (hk : ∀ x s, P s → (k x s).Holds P) :
    (r.bind k).Holds P := by
  cases r with
  | ok x s => exact hk x s h
  | stop s => exact h

/-! ### The host's share (60_exceptions R351) -/

theorem State.spend_of_served {s : State} (h : s.hostShare = none) : s.spend = s := by
  unfold State.spend; rw [h]

theorem State.spend_hostShare {s : State} {n : Nat} (h : s.hostShare = some (n + 1)) :
    s.spend.hostShare = some n := by
  unfold State.spend; rw [h]; rfl

/-- A turn is a boundary, then one micro-step of the share, or the host's end. -/
theorem State.turn_cases (s : State) :
    (s.hostShare = some 0 ∧ s.turn = .stop s.others) ∨
    (s.hostShare ≠ some 0 ∧ s.turn = .ok () s.others.spend) := by
  by_cases h : s.hostShare = some 0 <;> simp [State.turn, State.grant, h]

@[simp] theorem State.turn_of_served {s : State} (h : s.hostShare = none) :
    s.turn = .ok () s.others := by
  simp [State.turn, State.grant, h, State.spend_of_served]

@[simp] theorem State.turn_of_denied {s : State} (h : s.hostShare = some 0) :
    s.turn = .stop s.others := by
  simp [State.turn, State.grant, h]

/-- What a boundary and the share's count keep, a turn keeps. -/
theorem State.turn_holds {P : State → Prop} (others : ∀ s, P s → P s.others)
    (spend : ∀ s, P s → P s.spend) {s : State} (h : P s) : s.turn.Holds P := by
  rcases s.turn_cases with ⟨-, ht⟩ | ⟨-, ht⟩ <;> rw [ht]
  · exact others s h
  · exact spend _ (others s h)

/-! ### Micro-steps -/

/-- What every boundary, the share's count and every micro-step of a list keeps, the list keeps. -/
theorem State.runMicros_induct {P : State → Prop} (others : ∀ s, P s → P s.others)
    (spend : ∀ s, P s → P s.spend) (fs : List (State → State))
    (micro : ∀ f ∈ fs, ∀ s, P s → P (f s)) {s : State} (h : P s) :
    (State.runMicros fs s).Holds P := by
  induction fs generalizing s with
  | nil => exact h
  | cons f fs ih =>
    exact (State.turn_holds others spend h).bind fun _ u hu =>
      ih (fun g hg => micro g (by simp [hg])) (micro f (by simp) u hu)

@[simp] theorem State.runMicros_nil (s : State) : State.runMicros [] s = .ok () s := rfl

@[simp] theorem State.runMicros_cons (f : State → State) (fs : List (State → State)) (s : State) :
    State.runMicros (f :: fs) s = s.turn.bind fun _ s => State.runMicros fs (f s) := rfl

theorem State.runMicros_append (fs gs : List (State → State)) (s : State) :
    State.runMicros (fs ++ gs) s = (State.runMicros fs s).bind fun _ s => State.runMicros gs s := by
  induction fs generalizing s with
  | nil => rfl
  | cons f fs ih => simp [ih, Result.bind_assoc]

/-- The micro-steps of a list where the host is given every one. -/
def State.runServed : List (State → State) → State → State
  | [], s => s
  | f :: fs, s => State.runServed fs (f s.others)

@[simp] theorem State.runServed_nil (s : State) : State.runServed [] s = s := rfl

@[simp] theorem State.runServed_cons (f : State → State) (fs : List (State → State)) (s : State) :
    State.runServed (f :: fs) s = State.runServed fs (f s.others) := rfl

/-- A host that is given every micro-step runs the whole list, and is given every one after it. -/
theorem State.runMicros_of_served {fs : List (State → State)}
    (keeps : ∀ f ∈ fs, ∀ s, (f s).hostShare = s.hostShare) {s : State} (h : s.hostShare = none) :
    State.runMicros fs s = .ok () (State.runServed fs s) ∧
      (State.runServed fs s).hostShare = none := by
  induction fs generalizing s with
  | nil => exact ⟨rfl, h⟩
  | cons f fs ih =>
    have hf : (f s.others).hostShare = none := by rw [keeps f (by simp)]; simpa using h
    simpa [h] using ih (fun g hg => keeps g (by simp [hg])) hf

/-- With no move left no other agent moves. -/
theorem State.others_of_noMoves {s : State} (h : NoMoves s) : s.others = s := by
  unfold State.others; rw [h.1, h.2]

theorem State.waits_of_noMoves (k : Nat) {s : State} (h : NoMoves s) : State.waits k s = s := by
  induction k with
  | zero => rfl
  | succ k ih => rw [State.waits, State.others_of_noMoves h, ih]

theorem State.waits_add (j k : Nat) (s : State) :
    State.waits (j + k) s = State.waits k (State.waits j s) := by
  induction j generalizing s with
  | zero => simp [State.waits]
  | succ j ih => rw [Nat.succ_add]; exact ih _

theorem State.others_waits (k : Nat) (s : State) :
    (State.waits k s).others = State.waits (k + 1) s := by
  rw [State.waits_add k 1]; rfl

/-! ### Derived predicates -/

@[simp] theorem State.others_acked (s : State) : s.others.acked = s.acked := by simp [State.acked]

@[simp] theorem State.others_busFree (s : State) : s.others.busFree = s.busFree := by
  simp [State.busFree]

@[simp] theorem State.others_isRunning (s : State) : s.others.isRunning = s.isRunning := by
  simp [State.isRunning]

@[simp] theorem State.waits_acked (k : Nat) (s : State) : (State.waits k s).acked = s.acked := by
  simp [State.acked]

@[simp] theorem State.waits_busFree (k : Nat) (s : State) :
    (State.waits k s).busFree = s.busFree := by
  simp [State.busFree]

theorem State.busFree_iff (s : State) : s.busFree = true ↔ s.busen = false ∧ s.acked = false := by
  simp [State.busFree]

/-! ### Memory -/

/-- A boundary keeps the canonical form of Mem. -/
theorem State.others_keeps_wf {s : State} (h : Memory.wf s.mem = true) :
    Memory.wf s.others.mem = true := by
  refine State.others_induct (P := fun s => Memory.wf s.mem = true) (fun s l h => by simpa using h)
    (fun s h => by simpa using h) (fun s m _ h => ?_) h
  cases m with
  | tick => simpa [State.perform, State.tickHandler] using h
  | doorbellDeliver => simpa [State.perform] using h
  | cardReq v => simpa [State.perform, State.changeReq] using h
  | cardDbell v => simpa [State.perform] using h
  | cardWrite a v => simpa [State.perform, State.cardStore] using Memory.wf_writeAt a v h
  | guestWrite a v => simpa [State.perform, State.guestStore] using Memory.wf_writeAt a v h

/-- While the bus is free no other agent changes Mem (20_memory R77, R80). -/
theorem State.others_mem_of_busFree {s : State} (h : s.busFree = true) : s.others.mem = s.mem := by
  have key : s.others.busFree = true ∧ s.others.mem = s.mem := by
    refine State.others_induct (P := fun u => u.busFree = true ∧ u.mem = s.mem) ?_ ?_ ?_ ⟨h, rfl⟩
    · intro u l hu
      simpa [State.busFree, State.acked] using hu
    · intro u hu
      simpa [State.busFree, State.acked] using hu
    · intro u m he hu
      have hb := (State.busFree_iff u).1 hu.1
      cases m with
      | tick => simpa [State.perform, State.tickHandler, State.busFree, State.acked] using hu
      | doorbellDeliver => simpa [State.perform, State.busFree, State.acked] using hu
      | cardReq v => simpa [State.perform, State.changeReq, State.busFree, State.acked] using hu
      | cardDbell v => simpa [State.perform, State.busFree, State.acked] using hu
      | cardWrite a v => simp [State.enabled, State.expansionOwnsBus, hb.2] at he
      | guestWrite a v => simp [State.enabled, State.guestMayAccess, hb.1] at he
  exact key.2

theorem State.others_memAt_of_busFree {s : State} (h : s.busFree = true) (a : Addr) :
    s.others.memAt a = s.memAt a := by
  simp [State.memAt, State.others_mem_of_busFree h]

theorem State.waits_mem_of_busFree (k : Nat) {s : State} (h : s.busFree = true) :
    (State.waits k s).mem = s.mem := by
  induction k generalizing s with
  | zero => rfl
  | succ k ih =>
    rw [State.waits, ih (by simpa using h), State.others_mem_of_busFree h]

/-- With no bus write to come no other agent changes Mem. -/
theorem State.others_mem_of_noBusWrites {s : State} (h : NoBusWrites s) :
    s.others.mem = s.mem ∧ NoBusWrites s.others := by
  have hmoves : ∀ (ms : List Move) (u : State), (∀ m ∈ ms, isBusWrite m = false) →
      (State.moves ms u).mem = u.mem := by
    intro ms
    induction ms with
    | nil => intro u _; rfl
    | cons m ms ih =>
      intro u hm
      rw [State.moves, ih _ fun m' h' => hm m' (by simp [h'])]
      have hm0 := hm m (by simp)
      unfold State.move
      split
      · cases m <;> simp [isBusWrite] at hm0 <;>
          simp [State.perform, State.tickHandler, State.changeReq]
      · rfl
  obtain ⟨hl, he⟩ := h
  unfold State.others
  split
  · next batch rest hs =>
    refine ⟨?_, ?_, by simpa using he⟩
    · rw [hmoves batch _ (hl batch (by rw [hs]; simp))]; simp
    · intro b hb
      simp at hb
      exact hl b (by rw [hs]; simp [hb])
  · next hs hend =>
    refine ⟨?_, ?_, by simpa using he⟩
    · rw [hmoves _ _ (he hend _)]; simp
    · intro b hb
      simp [hs] at hb
  · exact ⟨rfl, hl, he⟩

/-! ### The history -/

@[simp] theorem hostLog_append (h k : List Event) : hostLog (h ++ k) = hostLog h ++ hostLog k := by
  simp [hostLog]

/-- Other agents' events may come before. -/
theorem inOrder_prepend {es pre ev : List Event} (hp : hostLog pre = []) (h : InOrder es ev) :
    InOrder es (pre ++ ev) := by
  cases es with
  | nil => rw [InOrder] at h ⊢; rw [hostLog_append, hp, h]; rfl
  | cons e es =>
    obtain ⟨before, rest, rfl, hb, hr⟩ := h
    refine ⟨pre ++ before, rest, by simp, ?_, hr⟩
    rw [hostLog_append, hp, hb]
    rfl

/-- Events in order in two stretches of a history are in order in both together. -/
theorem inOrder_append {es fs ev fv : List Event} (h : InOrder es ev) (hf : InOrder fs fv) :
    InOrder (es ++ fs) (ev ++ fv) := by
  induction es generalizing ev with
  | nil => exact inOrder_prepend h hf
  | cons e es ih =>
    obtain ⟨before, rest, rfl, hb, hr⟩ := h
    exact ⟨before, rest ++ fv, by simp, hb, ih hr⟩

/-- One event is in order in itself. -/
theorem inOrder_singleton (e : Event) : InOrder [e] [e] := ⟨[], [], rfl, rfl, rfl⟩

theorem busReplay_append (h k : List Event) (b c : Bool) :
    busReplay (h ++ k) b c = (busReplay h b c).bind fun p => busReplay k p.1 p.2 := by
  induction h generalizing b c with
  | nil => rfl
  | cons e h ih =>
    simp only [List.cons_append, busReplay]
    cases busEvent b c e with
    | none => rfl
    | some p => exact ih p.1 p.2

/-- What a boundary adds to the history: events of the other agents only, which respect the bus
discipline, and no TickFire while the tick is disarmed. -/
theorem State.others_hist (s : State) :
    ∃ ev, s.others.hist = s.hist ++ ev ∧ hostLog ev = [] ∧
      busReplay ev s.busen s.acked = some (s.busen, s.acked) ∧
      (s.tickArmed = false → Event.tickFire ∉ ev) := by
  have key : (∃ ev, s.others.hist = s.hist ++ ev ∧ hostLog ev = [] ∧
      busReplay ev s.busen s.acked = some (s.busen, s.acked) ∧
      (s.tickArmed = false → Event.tickFire ∉ ev)) ∧ s.others.busen = s.busen ∧
      s.others.acked = s.acked ∧ s.others.tickArmed = s.tickArmed := by
    refine State.others_induct (P := fun u => (∃ ev, u.hist = s.hist ++ ev ∧ hostLog ev = [] ∧
      busReplay ev s.busen s.acked = some (s.busen, s.acked) ∧
      (s.tickArmed = false → Event.tickFire ∉ ev)) ∧ u.busen = s.busen ∧
      u.acked = s.acked ∧ u.tickArmed = s.tickArmed) ?_ ?_ ?_
      ⟨⟨[], by simp [hostLog, busReplay]⟩, rfl, rfl, rfl⟩
    · intro u l hu
      simpa [State.acked] using hu
    · intro u hu
      simpa [State.acked] using hu
    · rintro u m he ⟨⟨ev, hh, hl, hr, ht⟩, hb, ha, hta⟩
      have more : ∀ (v : State) (new : List Event), v.hist = u.hist ++ new → hostLog new = [] →
          busReplay new s.busen s.acked = some (s.busen, s.acked) →
          (s.tickArmed = false → Event.tickFire ∉ new) → v.busen = u.busen → v.acked = u.acked →
          v.tickArmed = u.tickArmed →
          (∃ ev, v.hist = s.hist ++ ev ∧ hostLog ev = [] ∧
            busReplay ev s.busen s.acked = some (s.busen, s.acked) ∧
            (s.tickArmed = false → Event.tickFire ∉ ev)) ∧ v.busen = s.busen ∧
            v.acked = s.acked ∧ v.tickArmed = s.tickArmed := by
        intro v new h1 h2 h3 h4 h5 h6 h7
        refine ⟨⟨ev ++ new, by rw [h1, hh, List.append_assoc], by simp [hl, h2], ?_, ?_⟩,
          h5.trans hb, h6.trans ha, h7.trans hta⟩
        · rw [busReplay_append, hr]; exact h3
        · intro hf
          simp [ht hf, h4 hf]
      cases m with
      | tick =>
        simp only [State.enabled, Bool.and_eq_true] at he
        refine more _ [.tickFire, .line .int true, .line .int false, .intPulse .tick] ?_ ?_ ?_ ?_ ?_ ?_ ?_
        · simp [State.perform, State.tickHandler]
        · simp [hostLog, hostEvent]
        · simp [busReplay, busEvent]
        · intro hf; rw [← hta, he.1] at hf; exact absurd hf (by simp)
        all_goals simp [State.perform, State.acked]
      | doorbellDeliver =>
        refine more _ [] ?_ ?_ ?_ ?_ ?_ ?_ ?_ <;>
          simp [State.perform, State.deliverPending, hostLog, busReplay, State.acked]
      | cardReq v =>
        refine more _ [.req v] ?_ ?_ ?_ ?_ ?_ ?_ ?_ <;>
          simp [State.perform, State.changeReq, hostLog, hostEvent, busReplay, busEvent, State.acked]
      | cardDbell v =>
        refine more _ [.dbEdge v] ?_ ?_ ?_ ?_ ?_ ?_ ?_
        · simp only [State.perform, State.dbellEdge]
          split
          · split
            · simp
            · unfold State.maskedEdge
              split
              · simp
              · simp
              · split <;> simp
          · simp
        all_goals simp [State.perform, hostLog, hostEvent, busReplay, busEvent, State.acked]
      | cardWrite a v =>
        simp only [State.enabled, State.expansionOwnsBus] at he
        refine more _ [.xWrite a v] ?_ ?_ ?_ ?_ ?_ ?_ ?_
        · simp [State.perform, State.cardStore]
        · simp [hostLog, hostEvent]
        · simp [busReplay, busEvent, ← ha, he]
        all_goals simp [State.perform, State.acked]
      | guestWrite a v =>
        simp only [State.enabled, State.guestMayAccess] at he
        refine more _ [.gWrite a v] ?_ ?_ ?_ ?_ ?_ ?_ ?_
        · simp [State.perform, State.guestStore]
        · simp [hostLog, hostEvent]
        · simp [busReplay, busEvent, ← hb, he]
        all_goals simp [State.perform, State.acked]
  exact key.1

@[simp] theorem State.others_hostLog (s : State) : hostLog s.others.hist = hostLog s.hist := by
  obtain ⟨ev, h, hl, -⟩ := s.others_hist
  rw [h, hostLog_append, hl, List.append_nil]

theorem State.others_int {s : State} (h : s.int = false) : s.others.int = false := by
  refine State.others_induct (P := fun s => s.int = false) (fun s l h => by simpa using h)
    (fun s h => by simpa using h) (fun s m _ h => ?_) h
  cases m <;> simp [State.perform, State.tickHandler, State.changeReq, State.cardStore,
    State.guestStore, h]

/-! ### The fields only the other agents write -/

/-- Two states in which the other agents see and do the same, but for Mem and H. -/
def AgreeAsync (s t : State) : Prop :=
  SameAsync s t ∧ t.cfg.hasExpansion = s.cfg.hasExpansion ∧ t.cfg.maskedEdge = s.cfg.maskedEdge ∧
  t.tickArmed = s.tickArmed ∧ t.ie = s.ie ∧ t.doorbellIe = s.doorbellIe ∧ t.busen = s.busen ∧
  t.ack = s.ack ∧ t.endless = s.endless

theorem AgreeAsync.refl (s : State) : AgreeAsync s s := by simp [AgreeAsync, SameAsync]

theorem AgreeAsync.move {s t : State} (m : Move) (h : AgreeAsync s t) :
    AgreeAsync (s.move m) (t.move m) := by
  obtain ⟨⟨h1, h2, h3, h4, h5, h6, h7, h7'⟩, h8, h9, h10, h11, h12, h13, h14, h15⟩ := h
  have he : t.enabled m = s.enabled m := by
    cases m <;> simp [State.enabled, State.expansionOwnsBus, State.guestMayAccess, State.acked, *]
  unfold State.move
  rw [he]
  split
  · cases m with
    | cardDbell v =>
      have hm : s.cfg.maskedEdge = .lost ∨ s.cfg.maskedEdge = .deferred ∨
          s.cfg.maskedEdge = .either := by cases s.cfg.maskedEdge <;> simp
      rcases Bool.eq_false_or_eq_true s.doorbellIe with hd | hd <;>
        rcases Bool.eq_false_or_eq_true s.ie with hi | hi <;> rcases hm with hm | hm | hm <;>
        rcases Bool.eq_false_or_eq_true (Config.freeEdge s.edgeDraws) with hf | hf <;>
        simp [AgreeAsync, SameAsync, State.perform, State.dbellEdge, State.maskedEdge,
          State.useEdgeDraw, *]
    | _ =>
      simp [AgreeAsync, SameAsync, State.perform, State.tickHandler, State.deliverPending,
        State.changeReq, State.cardStore, State.guestStore, *]
  · exact ⟨⟨h1, h2, h3, h4, h5, h6, h7, h7'⟩, h8, h9, h10, h11, h12, h13, h14, h15⟩

/-- A boundary does the same in both. -/
theorem AgreeAsync.others {s t : State} (h : AgreeAsync s t) : AgreeAsync s.others t.others := by
  have hmoves : ∀ (ms : List Move) (s t : State), AgreeAsync s t →
      AgreeAsync (State.moves ms s) (State.moves ms t) := by
    intro ms
    induction ms with
    | nil => intro s t h; exact h
    | cons m ms ih => intro s t h; exact ih _ _ (h.move m)
  have hs : t.schedule = s.schedule := h.1.1
  have hd : t.moveDraws = s.moveDraws := h.1.2.2.2.2.2.2.2
  have he : t.endless = s.endless := h.2.2.2.2.2.2.2.2
  unfold State.others
  rw [hs, he, hd]
  split
  · refine hmoves _ _ _ ?_
    simpa [AgreeAsync, SameAsync] using h.imp_left And.right
  · refine hmoves _ _ _ ?_
    simpa [AgreeAsync, SameAsync] using h
  · exact h

end Sys2Proof.Machine
end

