-- ==== Sys2Proof/Laws/Link.lean ====
section
/-! SUPPORT. The Bus Link: a serial frame gives back the value it was made from, whatever FRAME_ORDER
is (30_encoding R124); what a cycle leaves in every field; and when it stops. -/

namespace Sys2Proof.Machine

open Sys2Proof.Safety

/-! ### Serial frames -/

theorem ofMsbBits_msbBits (n v acc : Nat) :
    ofMsbBits acc (msbBits n v) = acc * 2 ^ n + v % 2 ^ n := by
  induction n generalizing acc with
  | zero => simp [msbBits, ofMsbBits, Nat.mod_one]
  | succ n ih =>
    rw [msbBits, ofMsbBits, ih, Nat.mod_pow_succ, Nat.testBit_eq_decide_div_mod_eq]
    have h : v / 2 ^ n % 2 = 0 ∨ v / 2 ^ n % 2 = 1 := by omega
    rcases h with h | h <;> simp [h] <;> ring

theorem length_msbBits (n v : Nat) : (msbBits n v).length = n := by
  induction n with
  | zero => rfl
  | succ n ih => simp [msbBits, ih]

theorem length_serialBits (o : FrameOrder) (n v : Nat) : (serialBits o n v).length = n := by
  cases o <;> simp [serialBits, length_msbBits]

/-- A field read back from its own bits, in either order (30_encoding R124). -/
theorem assembleBits_serialBits (o : FrameOrder) (n v : Nat) :
    assembleBits o (serialBits o n v) = v % 2 ^ n := by
  cases o <;> simp [assembleBits, serialBits, ofMsbBits_msbBits]

theorem assemble_addr (o : FrameOrder) (a : Addr) :
    BitVec.ofNat 16 (assembleBits o (serialBits o 16 a.toNat)) = a := by
  rw [assembleBits_serialBits, Nat.mod_eq_of_lt a.isLt, BitVec.ofNat_toNat, BitVec.setWidth_eq]

theorem assemble_byte (o : FrameOrder) (v : Byte) :
    BitVec.ofNat 8 (assembleBits o (serialBits o 8 v.toNat)) = v := by
  rw [assembleBits_serialBits, Nat.mod_eq_of_lt v.isLt, BitVec.ofNat_toNat, BitVec.setWidth_eq]

theorem frame24_take (o : FrameOrder) (a : Addr) (v : Byte) :
    (frame24 o a v).take 16 = serialBits o 16 a.toNat := by
  rw [frame24, List.take_left' (length_serialBits o 16 a.toNat)]

theorem frame24_drop (o : FrameOrder) (a : Addr) (v : Byte) :
    (frame24 o a v).drop 16 = serialBits o 8 v.toNat := by
  rw [frame24, List.drop_left' (length_serialBits o 16 a.toNat)]

theorem frame16_take (o : FrameOrder) (a : Addr) :
    (frame16 o a).take 16 = serialBits o 16 a.toNat := by
  rw [frame16, List.take_of_length_le (by rw [length_serialBits])]

/-! ### What a cycle leaves (41_bus_link R141, R142) -/

theorem State.atomic_cons (f : State → State) (fs : List (State → State)) (s : State) :
    State.atomic (f :: fs) s = State.atomic fs (f s) := rfl

@[simp] theorem State.writeEffect_cfg (a : Addr) (v : Byte) (s : State) :
    (State.writeEffect a v s).cfg = s.cfg := by
  simp [State.writeEffect, State.atomic]

@[simp] theorem State.writeEffect_opA (a : Addr) (v : Byte) (s : State) :
    (State.writeEffect a v s).opA = s.opA := by
  simp [State.writeEffect, State.atomic]

@[simp] theorem State.writeEffect_opD (a : Addr) (v : Byte) (s : State) :
    (State.writeEffect a v s).opD = s.opD := by
  simp [State.writeEffect, State.atomic]

@[simp] theorem State.writeEffect_opN (a : Addr) (v : Byte) (s : State) :
    (State.writeEffect a v s).opN = s.opN := by
  simp [State.writeEffect, State.atomic]

@[simp] theorem State.writeEffect_opS (a : Addr) (v : Byte) (s : State) :
    (State.writeEffect a v s).opS = s.opS := by
  simp [State.writeEffect, State.atomic]

@[simp] theorem State.writeEffect_opT (a : Addr) (v : Byte) (s : State) :
    (State.writeEffect a v s).opT = s.opT := by
  simp [State.writeEffect, State.atomic]

@[simp] theorem State.writeEffect_q (a : Addr) (v : Byte) (s : State) :
    (State.writeEffect a v s).q = s.q := by
  simp [State.writeEffect, State.atomic]

@[simp] theorem State.writeEffect_qbuf (a : Addr) (v : Byte) (s : State) :
    (State.writeEffect a v s).qbuf = s.qbuf := by
  simp [State.writeEffect, State.atomic]

@[simp] theorem State.writeEffect_qt (a : Addr) (v : Byte) (s : State) :
    (State.writeEffect a v s).qt = s.qt := by
  simp [State.writeEffect, State.atomic]

@[simp] theorem State.writeEffect_cpos (a : Addr) (v : Byte) (s : State) :
    (State.writeEffect a v s).cpos = s.cpos := by
  simp [State.writeEffect, State.atomic]

@[simp] theorem State.writeEffect_runstate (a : Addr) (v : Byte) (s : State) :
    (State.writeEffect a v s).runstate = s.runstate := by
  simp [State.writeEffect, State.atomic]

@[simp] theorem State.writeEffect_arch (a : Addr) (v : Byte) (s : State) :
    (State.writeEffect a v s).arch = s.arch := by
  simp [State.writeEffect, State.atomic]

@[simp] theorem State.writeEffect_speed (a : Addr) (v : Byte) (s : State) :
    (State.writeEffect a v s).speed = s.speed := by
  simp [State.writeEffect, State.atomic]

@[simp] theorem State.writeEffect_tickArmed (a : Addr) (v : Byte) (s : State) :
    (State.writeEffect a v s).tickArmed = s.tickArmed := by
  simp [State.writeEffect, State.atomic]

@[simp] theorem State.writeEffect_doorbellLatch (a : Addr) (v : Byte) (s : State) :
    (State.writeEffect a v s).doorbellLatch = s.doorbellLatch := by
  simp [State.writeEffect, State.atomic]

@[simp] theorem State.writeEffect_dbPending (a : Addr) (v : Byte) (s : State) :
    (State.writeEffect a v s).dbPending = s.dbPending := by
  simp [State.writeEffect, State.atomic]

@[simp] theorem State.writeEffect_ie (a : Addr) (v : Byte) (s : State) :
    (State.writeEffect a v s).ie = s.ie := by
  simp [State.writeEffect, State.atomic]

@[simp] theorem State.writeEffect_doorbellIe (a : Addr) (v : Byte) (s : State) :
    (State.writeEffect a v s).doorbellIe = s.doorbellIe := by
  simp [State.writeEffect, State.atomic]

@[simp] theorem State.writeEffect_initialised (a : Addr) (v : Byte) (s : State) :
    (State.writeEffect a v s).initialised = s.initialised := by
  simp [State.writeEffect, State.atomic]

@[simp] theorem State.writeEffect_fault (a : Addr) (v : Byte) (s : State) :
    (State.writeEffect a v s).fault = s.fault := by
  simp [State.writeEffect, State.atomic]

@[simp] theorem State.writeEffect_arbPhase (a : Addr) (v : Byte) (s : State) :
    (State.writeEffect a v s).arbPhase = s.arbPhase := by
  simp [State.writeEffect, State.atomic]

@[simp] theorem State.writeEffect_arbWasRunning (a : Addr) (v : Byte) (s : State) :
    (State.writeEffect a v s).arbWasRunning = s.arbWasRunning := by
  simp [State.writeEffect, State.atomic]

@[simp] theorem State.writeEffect_archsel (a : Addr) (v : Byte) (s : State) :
    (State.writeEffect a v s).archsel = s.archsel := by
  simp [State.writeEffect, State.atomic]

@[simp] theorem State.writeEffect_speedsel (a : Addr) (v : Byte) (s : State) :
    (State.writeEffect a v s).speedsel = s.speedsel := by
  simp [State.writeEffect, State.atomic]

@[simp] theorem State.writeEffect_resetLine (a : Addr) (v : Byte) (s : State) :
    (State.writeEffect a v s).resetLine = s.resetLine := by
  simp [State.writeEffect, State.atomic]

@[simp] theorem State.writeEffect_busen (a : Addr) (v : Byte) (s : State) :
    (State.writeEffect a v s).busen = s.busen := by
  simp [State.writeEffect, State.atomic]

@[simp] theorem State.writeEffect_int (a : Addr) (v : Byte) (s : State) :
    (State.writeEffect a v s).int = s.int := by
  simp [State.writeEffect, State.atomic]

@[simp] theorem State.writeEffect_ack (a : Addr) (v : Byte) (s : State) :
    (State.writeEffect a v s).ack = s.ack := by
  simp [State.writeEffect, State.atomic]

@[simp] theorem State.writeEffect_latch (a : Addr) (v : Byte) (s : State) :
    (State.writeEffect a v s).latch = s.latch := by
  simp [State.writeEffect, State.atomic]

@[simp] theorem State.writeEffect_sdi (a : Addr) (v : Byte) (s : State) :
    (State.writeEffect a v s).sdi = s.sdi := by
  simp [State.writeEffect, State.atomic]

@[simp] theorem State.writeEffect_req (a : Addr) (v : Byte) (s : State) :
    (State.writeEffect a v s).req = s.req := by
  simp [State.writeEffect, State.atomic]

@[simp] theorem State.writeEffect_dbell (a : Addr) (v : Byte) (s : State) :
    (State.writeEffect a v s).dbell = s.dbell := by
  simp [State.writeEffect, State.atomic]

@[simp] theorem State.writeEffect_setting0 (a : Addr) (v : Byte) (s : State) :
    (State.writeEffect a v s).setting0 = s.setting0 := by
  simp [State.writeEffect, State.atomic]

@[simp] theorem State.writeEffect_setting1 (a : Addr) (v : Byte) (s : State) :
    (State.writeEffect a v s).setting1 = s.setting1 := by
  simp [State.writeEffect, State.atomic]

@[simp] theorem State.writeEffect_stream (a : Addr) (v : Byte) (s : State) :
    (State.writeEffect a v s).stream = s.stream := by
  simp [State.writeEffect, State.atomic]

@[simp] theorem State.writeEffect_refused (a : Addr) (v : Byte) (s : State) :
    (State.writeEffect a v s).refused = s.refused := by
  simp [State.writeEffect, State.atomic]

@[simp] theorem State.writeEffect_schedule (a : Addr) (v : Byte) (s : State) :
    (State.writeEffect a v s).schedule = s.schedule := by
  simp [State.writeEffect, State.atomic]

@[simp] theorem State.writeEffect_hostShare (a : Addr) (v : Byte) (s : State) :
    (State.writeEffect a v s).hostShare = s.hostShare := by
  simp [State.writeEffect, State.atomic]

@[simp] theorem State.writeEffect_endless (a : Addr) (v : Byte) (s : State) :
    (State.writeEffect a v s).endless = s.endless := by
  simp [State.writeEffect, State.atomic]

@[simp] theorem State.writeEffect_moveDraws (a : Addr) (v : Byte) (s : State) :
    (State.writeEffect a v s).moveDraws = s.moveDraws := by
  simp [State.writeEffect, State.atomic]

@[simp] theorem State.writeEffect_byteDraws (a : Addr) (v : Byte) (s : State) :
    (State.writeEffect a v s).byteDraws = s.byteDraws := by
  simp [State.writeEffect, State.atomic]

@[simp] theorem State.writeEffect_edgeDraws (a : Addr) (v : Byte) (s : State) :
    (State.writeEffect a v s).edgeDraws = s.edgeDraws := by
  simp [State.writeEffect, State.atomic]

@[simp] theorem State.readEffect_cfg (a : Addr) (s : State) :
    (State.readEffect a s).cfg = s.cfg := by
  simp [State.readEffect, State.atomic]

@[simp] theorem State.readEffect_opA (a : Addr) (s : State) :
    (State.readEffect a s).opA = s.opA := by
  simp [State.readEffect, State.atomic]

@[simp] theorem State.readEffect_opD (a : Addr) (s : State) :
    (State.readEffect a s).opD = s.opD := by
  simp [State.readEffect, State.atomic]

@[simp] theorem State.readEffect_opN (a : Addr) (s : State) :
    (State.readEffect a s).opN = s.opN := by
  simp [State.readEffect, State.atomic]

@[simp] theorem State.readEffect_opS (a : Addr) (s : State) :
    (State.readEffect a s).opS = s.opS := by
  simp [State.readEffect, State.atomic]

@[simp] theorem State.readEffect_opT (a : Addr) (s : State) :
    (State.readEffect a s).opT = s.opT := by
  simp [State.readEffect, State.atomic]

@[simp] theorem State.readEffect_q (a : Addr) (s : State) :
    (State.readEffect a s).q = s.q := by
  simp [State.readEffect, State.atomic]

@[simp] theorem State.readEffect_qbuf (a : Addr) (s : State) :
    (State.readEffect a s).qbuf = s.qbuf := by
  simp [State.readEffect, State.atomic]

@[simp] theorem State.readEffect_qt (a : Addr) (s : State) :
    (State.readEffect a s).qt = s.qt := by
  simp [State.readEffect, State.atomic]

@[simp] theorem State.readEffect_cpos (a : Addr) (s : State) :
    (State.readEffect a s).cpos = s.cpos := by
  simp [State.readEffect, State.atomic]

@[simp] theorem State.readEffect_runstate (a : Addr) (s : State) :
    (State.readEffect a s).runstate = s.runstate := by
  simp [State.readEffect, State.atomic]

@[simp] theorem State.readEffect_arch (a : Addr) (s : State) :
    (State.readEffect a s).arch = s.arch := by
  simp [State.readEffect, State.atomic]

@[simp] theorem State.readEffect_speed (a : Addr) (s : State) :
    (State.readEffect a s).speed = s.speed := by
  simp [State.readEffect, State.atomic]

@[simp] theorem State.readEffect_tickArmed (a : Addr) (s : State) :
    (State.readEffect a s).tickArmed = s.tickArmed := by
  simp [State.readEffect, State.atomic]

@[simp] theorem State.readEffect_doorbellLatch (a : Addr) (s : State) :
    (State.readEffect a s).doorbellLatch = s.doorbellLatch := by
  simp [State.readEffect, State.atomic]

@[simp] theorem State.readEffect_dbPending (a : Addr) (s : State) :
    (State.readEffect a s).dbPending = s.dbPending := by
  simp [State.readEffect, State.atomic]

@[simp] theorem State.readEffect_ie (a : Addr) (s : State) :
    (State.readEffect a s).ie = s.ie := by
  simp [State.readEffect, State.atomic]

@[simp] theorem State.readEffect_doorbellIe (a : Addr) (s : State) :
    (State.readEffect a s).doorbellIe = s.doorbellIe := by
  simp [State.readEffect, State.atomic]

@[simp] theorem State.readEffect_initialised (a : Addr) (s : State) :
    (State.readEffect a s).initialised = s.initialised := by
  simp [State.readEffect, State.atomic]

@[simp] theorem State.readEffect_fault (a : Addr) (s : State) :
    (State.readEffect a s).fault = s.fault := by
  simp [State.readEffect, State.atomic]

@[simp] theorem State.readEffect_arbPhase (a : Addr) (s : State) :
    (State.readEffect a s).arbPhase = s.arbPhase := by
  simp [State.readEffect, State.atomic]

@[simp] theorem State.readEffect_arbWasRunning (a : Addr) (s : State) :
    (State.readEffect a s).arbWasRunning = s.arbWasRunning := by
  simp [State.readEffect, State.atomic]

@[simp] theorem State.readEffect_archsel (a : Addr) (s : State) :
    (State.readEffect a s).archsel = s.archsel := by
  simp [State.readEffect, State.atomic]

@[simp] theorem State.readEffect_speedsel (a : Addr) (s : State) :
    (State.readEffect a s).speedsel = s.speedsel := by
  simp [State.readEffect, State.atomic]

@[simp] theorem State.readEffect_resetLine (a : Addr) (s : State) :
    (State.readEffect a s).resetLine = s.resetLine := by
  simp [State.readEffect, State.atomic]

@[simp] theorem State.readEffect_busen (a : Addr) (s : State) :
    (State.readEffect a s).busen = s.busen := by
  simp [State.readEffect, State.atomic]

@[simp] theorem State.readEffect_int (a : Addr) (s : State) :
    (State.readEffect a s).int = s.int := by
  simp [State.readEffect, State.atomic]

@[simp] theorem State.readEffect_ack (a : Addr) (s : State) :
    (State.readEffect a s).ack = s.ack := by
  simp [State.readEffect, State.atomic]

@[simp] theorem State.readEffect_rwn (a : Addr) (s : State) :
    (State.readEffect a s).rwn = s.rwn := by
  simp [State.readEffect, State.atomic]

@[simp] theorem State.readEffect_req (a : Addr) (s : State) :
    (State.readEffect a s).req = s.req := by
  simp [State.readEffect, State.atomic]

@[simp] theorem State.readEffect_dbell (a : Addr) (s : State) :
    (State.readEffect a s).dbell = s.dbell := by
  simp [State.readEffect, State.atomic]

@[simp] theorem State.readEffect_mem (a : Addr) (s : State) :
    (State.readEffect a s).mem = s.mem := by
  simp [State.readEffect, State.atomic]

@[simp] theorem State.readEffect_setting0 (a : Addr) (s : State) :
    (State.readEffect a s).setting0 = s.setting0 := by
  simp [State.readEffect, State.atomic]

@[simp] theorem State.readEffect_setting1 (a : Addr) (s : State) :
    (State.readEffect a s).setting1 = s.setting1 := by
  simp [State.readEffect, State.atomic]

@[simp] theorem State.readEffect_stream (a : Addr) (s : State) :
    (State.readEffect a s).stream = s.stream := by
  simp [State.readEffect, State.atomic]

@[simp] theorem State.readEffect_refused (a : Addr) (s : State) :
    (State.readEffect a s).refused = s.refused := by
  simp [State.readEffect, State.atomic]

@[simp] theorem State.readEffect_schedule (a : Addr) (s : State) :
    (State.readEffect a s).schedule = s.schedule := by
  simp [State.readEffect, State.atomic]

@[simp] theorem State.readEffect_hostShare (a : Addr) (s : State) :
    (State.readEffect a s).hostShare = s.hostShare := by
  simp [State.readEffect, State.atomic]

@[simp] theorem State.readEffect_endless (a : Addr) (s : State) :
    (State.readEffect a s).endless = s.endless := by
  simp [State.readEffect, State.atomic]

@[simp] theorem State.readEffect_moveDraws (a : Addr) (s : State) :
    (State.readEffect a s).moveDraws = s.moveDraws := by
  simp [State.readEffect, State.atomic]

@[simp] theorem State.readEffect_edgeDraws (a : Addr) (s : State) :
    (State.readEffect a s).edgeDraws = s.edgeDraws := by
  simp [State.readEffect, State.atomic]

@[simp] theorem State.shiftOut_frameOut (bits : List Bool) (s : State) :
    (s.shiftOut bits).frameOut = bits := rfl

@[simp] theorem State.shiftOut_sdo (bits : List Bool) (s : State) :
    (s.shiftOut bits).sdo = bits.getLastD s.sdo := rfl

@[simp] theorem State.shiftOut_sclk (bits : List Bool) (s : State) :
    (s.shiftOut bits).sclk = false := rfl

@[simp] theorem State.loadAddr_srAddr (bits : List Bool) (s : State) :
    (s.loadAddr bits).srAddr =
      BitVec.ofNat 16 (assembleBits s.cfg.frameOrder (bits.take 16)) := rfl

@[simp] theorem State.loadData_srData (bits : List Bool) (s : State) :
    (s.loadData bits).srData =
      BitVec.ofNat 8 (assembleBits s.cfg.frameOrder (bits.drop 16)) := rfl

@[simp] theorem State.loadData_frameIn (bits : List Bool) (s : State) :
    (s.loadData bits).frameIn = [] := rfl

@[simp] theorem State.capture_srData (a : Addr) (s : State) :
    (s.capture a).srData = s.captured a := by
  unfold State.capture State.captured; split <;> rfl

@[simp] theorem State.capture_byteDraws (a : Addr) (s : State) :
    (s.capture a).byteDraws = if inRam s.cfg a then s.byteDraws else s.byteDraws + 1 := by
  unfold State.capture; split <;> rfl

@[simp] theorem State.shiftIn_frameIn (s : State) :
    s.shiftIn.frameIn = serialBits s.cfg.frameOrder 8 s.srData.toNat := rfl

@[simp] theorem State.shiftIn_sdi (s : State) :
    s.shiftIn.sdi = (serialBits s.cfg.frameOrder 8 s.srData.toNat).getLastD s.sdi := rfl

@[simp] theorem State.shiftIn_sclk (s : State) : s.shiftIn.sclk = false := rfl

@[simp] theorem State.storeRam_mem (a : Addr) (v : Byte) (s : State) :
    (s.storeRam a v).mem = if inRam s.cfg a then Memory.writeAt s.mem a.toNat v else s.mem := by
  unfold State.storeRam; split <;> rfl

theorem State.captured_congr {s t : State} (a : Addr) (hc : t.cfg = s.cfg) (hm : t.mem = s.mem)
    (hd : t.byteDraws = s.byteDraws) : t.captured a = s.captured a := by
  simp [State.captured, State.memAt, hc, hm, hd]

@[simp] theorem State.writeEffect_linkBusy (a : Addr) (v : Byte) (s : State) :
    (s.writeEffect a v).linkBusy = false := by simp [State.writeEffect, State.atomic]

@[simp] theorem State.writeEffect_frameOut (a : Addr) (v : Byte) (s : State) :
    (s.writeEffect a v).frameOut = frame24 s.cfg.frameOrder a v := by
  simp [State.writeEffect, State.atomic]

@[simp] theorem State.writeEffect_frameIn (a : Addr) (v : Byte) (s : State) :
    (s.writeEffect a v).frameIn = [] := by simp [State.writeEffect, State.atomic]

@[simp] theorem State.writeEffect_sdo (a : Addr) (v : Byte) (s : State) :
    (s.writeEffect a v).sdo = (frame24 s.cfg.frameOrder a v).getLastD s.sdo := by
  simp [State.writeEffect, State.atomic]

@[simp] theorem State.writeEffect_sclk (a : Addr) (v : Byte) (s : State) :
    (s.writeEffect a v).sclk = false := by simp [State.writeEffect, State.atomic]

@[simp] theorem State.writeEffect_aoe (a : Addr) (v : Byte) (s : State) :
    (s.writeEffect a v).aoe = false := by simp [State.writeEffect, State.atomic]

@[simp] theorem State.writeEffect_rwn (a : Addr) (v : Byte) (s : State) :
    (s.writeEffect a v).rwn = true := by simp [State.writeEffect, State.atomic]

/-- The chain holds the address after a write cycle, whatever FRAME_ORDER is. -/
@[simp] theorem State.writeEffect_srAddr (a : Addr) (v : Byte) (s : State) :
    (s.writeEffect a v).srAddr = a := by
  simp [State.writeEffect, State.atomic, frame24_take, assemble_addr]

/-- The chain holds the byte after a write cycle, whatever FRAME_ORDER is. -/
@[simp] theorem State.writeEffect_srData (a : Addr) (v : Byte) (s : State) :
    (s.writeEffect a v).srData = v := by
  simp [State.writeEffect, State.atomic, frame24_drop, assemble_byte]

@[simp] theorem State.writeEffect_mem (a : Addr) (v : Byte) (s : State) :
    (s.writeEffect a v).mem =
      if inRam s.cfg a then Memory.writeAt s.mem a.toNat v else s.mem := by
  simp [State.writeEffect, State.atomic]

@[simp] theorem State.writeEffect_hist (a : Addr) (v : Byte) (s : State) :
    (s.writeEffect a v).hist = s.hist ++ [.cyc .write a v] := by
  simp [State.writeEffect, State.atomic]

/-- The memory effect of a write cycle, seen from any address. -/
theorem State.memAt_writeEffect (a b : Addr) (v : Byte) (s : State) :
    (s.writeEffect a v).memAt b = if a = b ∧ inRam s.cfg a = true then v else s.memAt b := by
  have h := State.memAt_setMem a b v s
  simp only [State.memAt, State.setMem_mem] at h
  simp only [State.memAt, State.writeEffect_mem]
  by_cases hr : inRam s.cfg a = true
  · simp only [hr, if_true, h, and_true]
  · simp [hr]

@[simp] theorem State.readEffect_linkBusy (a : Addr) (s : State) :
    (s.readEffect a).linkBusy = false := by simp [State.readEffect, State.atomic]

@[simp] theorem State.readEffect_frameOut (a : Addr) (s : State) :
    (s.readEffect a).frameOut = frame16 s.cfg.frameOrder a := by
  simp [State.readEffect, State.atomic]

@[simp] theorem State.readEffect_sdo (a : Addr) (s : State) :
    (s.readEffect a).sdo = (frame16 s.cfg.frameOrder a).getLastD s.sdo := by
  simp [State.readEffect, State.atomic]

@[simp] theorem State.readEffect_sclk (a : Addr) (s : State) :
    (s.readEffect a).sclk = false := by simp [State.readEffect, State.atomic]

@[simp] theorem State.readEffect_aoe (a : Addr) (s : State) :
    (s.readEffect a).aoe = false := by simp [State.readEffect, State.atomic]

@[simp] theorem State.readEffect_latch (a : Addr) (s : State) :
    (s.readEffect a).latch = false := by simp [State.readEffect, State.atomic]

@[simp] theorem State.readEffect_srAddr (a : Addr) (s : State) :
    (s.readEffect a).srAddr = a := by
  simp [State.readEffect, State.atomic, frame16_take, assemble_addr]

@[simp] theorem State.readEffect_byteDraws (a : Addr) (s : State) :
    (s.readEffect a).byteDraws = if inRam s.cfg a then s.byteDraws else s.byteDraws + 1 := by
  simp [State.readEffect, State.atomic]

@[simp] theorem State.readEffect_hist (a : Addr) (s : State) :
    (s.readEffect a).hist = s.hist ++ [.cyc .read a (s.captured a)] := by
  simp [State.readEffect, State.atomic]

@[simp] theorem State.readEffect_srData (a : Addr) (s : State) :
    (s.readEffect a).srData = s.captured a := by
  simp [State.readEffect, State.atomic]
  exact State.captured_congr a (by simp) (by simp) (by simp)

@[simp] theorem State.readEffect_frameIn (a : Addr) (s : State) :
    (s.readEffect a).frameIn = serialBits s.cfg.frameOrder 8 (s.captured a).toNat := by
  simp [State.readEffect, State.atomic]
  rw [State.captured_congr (s := s) a (by simp) (by simp) (by simp)]

@[simp] theorem State.readEffect_sdi (a : Addr) (s : State) :
    (s.readEffect a).sdi = (serialBits s.cfg.frameOrder 8 (s.captured a).toNat).getLastD s.sdi := by
  simp [State.readEffect, State.atomic]
  rw [State.captured_congr (s := s) a (by simp) (by simp) (by simp)]

/-- The byte a read cycle returns is the byte it captured (41_bus_link R142), whatever FRAME_ORDER is. -/
@[simp] theorem State.readEffect_assembled (a : Addr) (s : State) :
    (s.readEffect a).assembled = s.captured a := by
  simp [State.assembled, assemble_byte]

/-! ### When a cycle runs and when it stops (41_bus_link R140) -/

@[simp] theorem State.others_linkCheck (s : State) : s.others.linkCheck = s.linkCheck := by
  simp [State.linkCheck]

theorem State.linkCheck_none {s : State} (hl : s.linkBusy = false) (hb : s.busFree = true) :
    s.linkCheck = none := by simp [State.linkCheck, hl, hb]

theorem State.linkCheck_eq_none_iff (s : State) :
    s.linkCheck = none ↔ s.linkBusy = false ∧ s.busFree = true := by
  unfold State.linkCheck
  cases s.linkBusy <;> cases s.busFree <;> simp

/-- A write cycle on a free bus, the host served. -/
theorem State.writeCycle_ok {s : State} (a : Addr) (v : Byte) (hs : s.hostShare = none)
    (h : s.linkCheck = none) : s.writeCycle a v = .ok () (s.others.writeEffect a v) := by
  simp [State.writeCycle, hs, h]

/-- A write cycle that raises, the host served. -/
theorem State.writeCycle_stop {s : State} {c : FaultCode} (a : Addr) (v : Byte)
    (hs : s.hostShare = none) (h : s.linkCheck = some c) :
    s.writeCycle a v = .stop (s.others.raise c) := by
  simp [State.writeCycle, hs, h]

/-- A read cycle on a free bus, the host served. -/
theorem State.readCycle_ok {s : State} (a : Addr) (hs : s.hostShare = none)
    (h : s.linkCheck = none) :
    s.readCycle a = .ok (s.others.captured a) (s.others.readEffect a) := by
  simp [State.readCycle, hs, h]

/-- A read cycle that raises, the host served. -/
theorem State.readCycle_stop {s : State} {c : FaultCode} (a : Addr) (hs : s.hostShare = none)
    (h : s.linkCheck = some c) : s.readCycle a = .stop (s.others.raise c) := by
  simp [State.readCycle, hs, h]

@[simp] theorem State.spend_linkCheck (s : State) : s.spend.linkCheck = s.linkCheck := by
  simp [State.linkCheck, State.busFree, State.acked]

/-- Everything a write cycle can do: a turn not given, a raise, or the cycle. -/
theorem State.writeCycle_cases (a : Addr) (v : Byte) (s : State) :
    (s.hostShare = some 0 ∧ s.writeCycle a v = .stop s.others) ∨
    (∃ c, s.linkCheck = some c ∧ s.writeCycle a v = .stop (s.others.spend.raise c)) ∨
    (s.linkCheck = none ∧ s.writeCycle a v = .ok () (s.others.spend.writeEffect a v)) := by
  rcases s.turn_cases with ⟨h0, ht⟩ | ⟨-, ht⟩
  · exact .inl ⟨h0, by simp [State.writeCycle, ht]⟩
  · cases hc : s.linkCheck with
    | none => exact .inr (.inr ⟨rfl, by simp [State.writeCycle, ht, hc]⟩)
    | some c => exact .inr (.inl ⟨c, rfl, by simp [State.writeCycle, ht, hc]⟩)

/-- Everything a read cycle can do. -/
theorem State.readCycle_cases (a : Addr) (s : State) :
    (s.hostShare = some 0 ∧ s.readCycle a = .stop s.others) ∨
    (∃ c, s.linkCheck = some c ∧ s.readCycle a = .stop (s.others.spend.raise c)) ∨
    (s.linkCheck = none ∧
      s.readCycle a = .ok (s.others.spend.captured a) (s.others.spend.readEffect a)) := by
  rcases s.turn_cases with ⟨h0, ht⟩ | ⟨-, ht⟩
  · exact .inl ⟨h0, by simp [State.readCycle, ht]⟩
  · cases hc : s.linkCheck with
    | none => exact .inr (.inr ⟨rfl, by simp [State.readCycle, ht, hc]⟩)
    | some c => exact .inr (.inl ⟨c, rfl, by simp [State.readCycle, ht, hc]⟩)

@[simp] theorem State.writeEffect_busFree (a : Addr) (v : Byte) (s : State) :
    (s.writeEffect a v).busFree = s.busFree := by simp [State.busFree, State.acked]

@[simp] theorem State.readEffect_busFree (a : Addr) (s : State) :
    (s.readEffect a).busFree = s.busFree := by simp [State.busFree, State.acked]

/-- After a cycle on a free bus the next cycle of the command runs too (42_memory_facade R170). -/
theorem State.writeEffect_linkCheck {s : State} (a : Addr) (v : Byte) (h : s.linkCheck = none) :
    (s.writeEffect a v).linkCheck = none := by
  simp [State.linkCheck_eq_none_iff, ((State.linkCheck_eq_none_iff s).1 h).2]

theorem State.readEffect_linkCheck {s : State} (a : Addr) (h : s.linkCheck = none) :
    (s.readEffect a).linkCheck = none := by
  simp [State.linkCheck_eq_none_iff, ((State.linkCheck_eq_none_iff s).1 h).2]

/-! ### Commands -/

@[simp] theorem State.startString_linkCheck (s : State) :
    s.startString.linkCheck = s.linkCheck := by
  simp [State.linkCheck, State.busFree, State.acked]

/-- RDS clears QBUF and QT where its first cycle can run. -/
theorem State.startString_ok {s : State} (h : s.linkCheck = none) :
    s.startString = s.setString [] false := by simp [State.startString, h]

theorem State.startString_stop {s : State} {c : FaultCode} (h : s.linkCheck = some c) :
    s.startString = s := by simp [State.startString, h]

theorem State.requireInit_ok {s : State} (hs : s.hostShare = none) (h : s.initialised = true) :
    s.requireInit = .ok () s.others := by simp [State.requireInit, hs, h]

theorem State.requireInit_stop {s : State} (hs : s.hostShare = none) (h : s.initialised = false) :
    s.requireInit = .stop (s.others.raise .notInitialised) := by simp [State.requireInit, hs, h]

/-- Everything the INITIALISED check can do. -/
theorem State.requireInit_cases (s : State) :
    (s.hostShare = some 0 ∧ s.requireInit = .stop s.others) ∨
    (s.initialised = false ∧ s.requireInit = .stop (s.others.spend.raise .notInitialised)) ∨
    (s.initialised = true ∧ s.requireInit = .ok () s.others.spend) := by
  rcases s.turn_cases with ⟨h0, ht⟩ | ⟨-, ht⟩
  · exact .inl ⟨h0, by simp [State.requireInit, ht]⟩
  · cases hi : s.initialised with
    | false => exact .inr (.inl ⟨rfl, by simp [State.requireInit, ht, hi]⟩)
    | true => exact .inr (.inr ⟨rfl, by simp [State.requireInit, ht, hi]⟩)

/-- Write cycles one after another: none, all of them on a free bus, or a stop at the first. -/
theorem State.writeBytes_cons_ok {s : State} (a : Addr) (v : Byte) (rest : List (Addr × Byte))
    (hs : s.hostShare = none) (h : s.linkCheck = none) :
    State.writeBytes ((a, v) :: rest) s = State.writeBytes rest (s.others.writeEffect a v) := by
  rw [State.writeBytes, State.writeCycle_ok a v hs h]; rfl

theorem State.writeBytes_cons_stop {s : State} {c : FaultCode} (a : Addr) (v : Byte)
    (rest : List (Addr × Byte)) (hs : s.hostShare = none) (h : s.linkCheck = some c) :
    State.writeBytes ((a, v) :: rest) s = .stop (s.others.raise c) := by
  rw [State.writeBytes, State.writeCycle_stop a v hs h]; rfl

@[simp] theorem State.writeBytes_nil (s : State) : State.writeBytes [] s = .ok () s := rfl


end Sys2Proof.Machine
end

