-- ==== Sys2Proof/Laws/Words.lean ====
section
/-! SUPPORT. Byte order: a value split into bytes and joined again is itself (30_encoding R103), and the
selector codes read back (10_state R45). -/

namespace Sys2Proof

theorem getLsbD_joinBytes (lo hi : Byte) (i : Nat) :
    (joinBytes lo hi).getLsbD i = if i < 8 then lo.getLsbD i else hi.getLsbD (i - 8) := by
  unfold joinBytes
  rw [BitVec.getLsbD_append]

@[simp] theorem joinBytes_low_high (v : Word16) : joinBytes (lowByte v) (highByte v) = v := by
  apply BitVec.eq_of_getLsbD_eq
  intro i hi
  rw [getLsbD_joinBytes, lowByte, highByte, BitVec.getLsbD_extractLsb', BitVec.getLsbD_extractLsb']
  by_cases h : i < 8
  · simp [h]
  · have h1 : i - 8 < 8 := by omega
    have h2 : 8 + (i - 8) = i := by omega
    simp [h, h1, h2]

@[simp] theorem lowByte_joinBytes (lo hi : Byte) : lowByte (joinBytes lo hi) = lo := by
  apply BitVec.eq_of_getLsbD_eq
  intro i hi'
  rw [lowByte, BitVec.getLsbD_extractLsb', getLsbD_joinBytes]
  simp [hi']

@[simp] theorem highByte_joinBytes (lo hi : Byte) : highByte (joinBytes lo hi) = hi := by
  apply BitVec.eq_of_getLsbD_eq
  intro i hi'
  rw [highByte, BitVec.getLsbD_extractLsb', getLsbD_joinBytes]
  simp [hi']

theorem getLsbD_joinHalves (lo hi : Word16) (i : Nat) :
    (joinHalves lo hi).getLsbD i = if i < 16 then lo.getLsbD i else hi.getLsbD (i - 16) := by
  unfold joinHalves
  rw [BitVec.getLsbD_append]

@[simp] theorem joinHalves_low_high (v : Word32) : joinHalves (lowHalf v) (highHalf v) = v := by
  apply BitVec.eq_of_getLsbD_eq
  intro i hi
  rw [getLsbD_joinHalves, lowHalf, highHalf, BitVec.getLsbD_extractLsb', BitVec.getLsbD_extractLsb']
  by_cases h : i < 16
  · simp [h]
  · have h1 : i - 16 < 16 := by omega
    have h2 : 16 + (i - 16) = i := by omega
    simp [h, h1, h2]

@[simp] theorem lowHalf_joinHalves (lo hi : Word16) : lowHalf (joinHalves lo hi) = lo := by
  apply BitVec.eq_of_getLsbD_eq
  intro i hi'
  rw [lowHalf, BitVec.getLsbD_extractLsb', getLsbD_joinHalves]
  simp [hi']

@[simp] theorem highHalf_joinHalves (lo hi : Word16) : highHalf (joinHalves lo hi) = hi := by
  apply BitVec.eq_of_getLsbD_eq
  intro i hi'
  rw [highHalf, BitVec.getLsbD_extractLsb', getLsbD_joinHalves]
  simp [hi']

@[simp] theorem Arch.ofCode_code (x : Arch) : Arch.ofCode x.code = some x := by cases x <;> rfl

@[simp] theorem Speed.ofCode_code (x : Speed) : Speed.ofCode x.code = some x := by cases x <;> rfl

theorem Arch.code_of_ofCode {b : Byte} {x : Arch} (h : Arch.ofCode b = some x) : x.code = b := by
  unfold Arch.ofCode at h
  split at h
  · next hb => cases h; exact hb.symm
  · split at h
    · next hb => cases h; exact hb.symm
    · cases h

theorem Speed.code_of_ofCode {b : Byte} {x : Speed} (h : Speed.ofCode b = some x) : x.code = b := by
  unfold Speed.ofCode at h
  split at h
  · next hb => cases h; exact hb.symm
  · split at h
    · next hb => cases h; exact hb.symm
    · cases h

end Sys2Proof
end

