-- ==== Sys2Proof/Laws/PerInstr.lean ====
section
/-! SUPPORT. Statements for all instructions, one lemma per constructor.
EncodeLength: a command's words have the length its format gives (30_encoding R101, R105, R106). -/

namespace Sys2Proof.Laws

/-- The encoding of a command has the length of its format. -/
def EncodeLength.Statement (i : Instr) : Prop := (encode i).length = i.byteLength

theorem EncodeLength.wrb (a : Addr) (d : Byte) : EncodeLength.Statement (.wrb a d) := rfl

theorem EncodeLength.rdb (a : Addr) : EncodeLength.Statement (.rdb a) := rfl

theorem EncodeLength.wrw (a : Addr) (d : Word16) : EncodeLength.Statement (.wrw a d) := rfl

theorem EncodeLength.rdw (a : Addr) : EncodeLength.Statement (.rdw a) := rfl

theorem EncodeLength.wrl (a : Addr) (d : Word32) : EncodeLength.Statement (.wrl a d) := rfl

theorem EncodeLength.wrt (a : Addr) (t : List Byte) : EncodeLength.Statement (.wrt a t) := by
  simp [EncodeLength.Statement, encode, bytes16, Instr.byteLength]
  omega

theorem EncodeLength.rds (a : Addr) (n : Word16) : EncodeLength.Statement (.rds a n) := rfl

theorem EncodeLength.vxl (a : Addr) : EncodeLength.Statement (.vxl a) := rfl

theorem EncodeLength.vwrb (a : Addr) (d : Byte) : EncodeLength.Statement (.vwrb a d) := rfl

theorem EncodeLength.vrdb (a : Addr) : EncodeLength.Statement (.vrdb a) := rfl

theorem EncodeLength.init : EncodeLength.Statement .init := rfl

theorem EncodeLength.hrst : EncodeLength.Statement .hrst := rfl

theorem EncodeLength.run : EncodeLength.Statement .run := rfl

theorem EncodeLength.stop : EncodeLength.Statement .stop := rfl

theorem EncodeLength.sarch (x : Arch) : EncodeLength.Statement (.sarch x) := rfl

theorem EncodeLength.sspd (x : Speed) : EncodeLength.Statement (.sspd x) := rfl

theorem EncodeLength.poll : EncodeLength.Statement .poll := rfl

end Sys2Proof.Laws
end

