-- ==== Sys2Proof/Laws/Step.lean ====
section
/-! SUPPORT. Everything a step can do, said once. -/

namespace Sys2Proof.Machine

open Sys2Proof.Safety

/-- A command's result is always a next state. -/
theorem Result.finish_next (r : Result Unit) :
    ∃ t, r.finish = .next t ∧ (r = .stop t ∨ ∃ u, r = .ok () u ∧ t = u.complete) := by
  cases r with
  | ok x s => exact ⟨_, rfl, .inr ⟨s, rfl, rfl⟩⟩
  | stop s => exact ⟨_, rfl, .inl rfl⟩

/-- Every command answers a next state: none faults the machine, none is refused. -/
theorem exec_next (i : Instr) (s : State) : ∃ t, exec i s = .next t := by
  have fin : ∀ r : Result Unit, ∃ t, r.finish = .next t := fun r =>
    let ⟨t, h, _⟩ := r.finish_next; ⟨t, h⟩
  have pau : ∀ r : Result Unit, ∃ t, r.pause = .next t := fun r => by cases r <;> exact ⟨_, rfl⟩
  cases i with
  | poll =>
    simp only [exec, execPoll, State.resumeHandshake]
    split
    · split
      · exact ⟨_, rfl⟩
      · exact fin _
    · split
      · exact ⟨_, rfl⟩
      · split
        · split
          · exact ⟨_, rfl⟩
          · split
            · exact pau _
            · exact fin _
        · exact ⟨_, rfl⟩
  | _ => exact fin _

/-- What a step that answers a next state did: the others alone moved, the held POLL went on, a fetched
command ran, or the refusal mark was set. -/
theorem step_cases {s t : State} (h : step s = .next t) :
    (s.fault ≠ none ∨ s.refused ≠ none ∨ HostDenied s ∨ (s.arbPhase = .idle ∧ s.stream = [])) ∧
      t = s.others ∨
    (s.fault = none ∧ s.refused = none ∧ ¬ HostDenied s) ∧
      ((s.arbPhase = .acked ∧ exec .poll s = .next t) ∨
       (s.arbPhase = .idle ∧ ∃ i rest, decode s.stream = .command i rest ∧
          exec i ((s.setStream rest).latchOperands i) = .next t) ∨
       (s.arbPhase = .idle ∧ ∃ r, decode s.stream = .refuse r ∧ s.stream ≠ [] ∧
          t = s.markRefused r)) := by
  unfold step at h
  split at h
  · next c hc =>
    left
    refine ⟨.inl (by simp [*]), ?_⟩
    unfold stepOthers at h
    split at h <;> cases h
    rfl
  · next m hf hm =>
    left
    refine ⟨.inr (.inl (by simp [*])), ?_⟩
    unfold stepOthers at h
    split at h <;> cases h
    rfl
  · next hf hm =>
    split at h
    · next hd =>
      cases h
      exact .inl ⟨.inr (.inr (.inl hd)), rfl⟩
    next hd =>
    unfold stepHost at h
    split at h
    · next hp => exact .inr ⟨⟨hf, hm, hd⟩, .inl ⟨hp, h⟩⟩
    · next hp =>
      unfold State.fetch at h
      cases hs : s.stream with
      | nil =>
        simp only [hs] at h
        cases h
        exact .inl ⟨.inr (.inr (.inr ⟨hp, rfl⟩)), rfl⟩
      | cons op bytes =>
        simp only [hs] at h
        cases hdec : decode (op :: bytes) with
        | command i rest =>
          simp only [hdec] at h
          exact .inr ⟨⟨hf, hm, hd⟩, .inr (.inl ⟨hp, i, rest, by simp, h⟩)⟩
        | refuse r =>
          simp only [hdec] at h
          cases h
          exact .inr ⟨⟨hf, hm, hd⟩, .inr (.inr ⟨hp, r, by simp, by simp, rfl⟩)⟩

end Sys2Proof.Machine
end

