-- ==== Sys2Proof/Laws/Run.lean ====
section
/-! SUPPORT. The end of a run (70_reset_and_hazards R406): an idle engine stays idle and completes
nothing, a faulted, refused or denied host completes nothing, so a run has at most one end point. -/

namespace Sys2Proof.Safety

open Sys2Proof.Machine

/-- The other agents leave an idle engine idle. -/
theorem Ended.others {s : State} (h : Ended s) : Ended s.others := by
  obtain ⟨⟨hf, hr, hp⟩, hs⟩ := h
  exact ⟨⟨by simpa using hf, by simpa using hr, by simpa using hp⟩, by simpa using hs⟩

/-- A step of an idle engine is the other agents' moves. -/
theorem Ended.step_eq {s : State} (h : Ended s) : step s = .next s.others := by
  obtain ⟨⟨hf, hr, hp⟩, hs⟩ := h
  by_cases hd : s.hostShare = some 0 <;> simp [step, stepHost, State.fetch, hf, hr, hp, hs, hd]

/-- An idle engine stays idle at the same position. -/
theorem Ended.step {s t : State} (h : Ended s) (hst : step s = .next t) :
    Ended t ∧ t.cpos = s.cpos := by
  rw [h.step_eq] at hst
  cases hst
  exact ⟨h.others, by simp⟩

/-- Past an end point every state is idle, at the end point's position. -/
theorem Ended.reaches {s t : State} (h : Ended s) (hr : Reaches s t) :
    Ended t ∧ t.cpos = s.cpos := by
  induction hr with
  | refl => exact ⟨h, rfl⟩
  | tail _ hst ih => exact ⟨(ih.1.step hst).1, (ih.1.step hst).2.trans ih.2⟩

/-- No state past an end point is an end point: R406 picks one point of a run. -/
theorem Ended.no_later_end {s u t : State} (h : Ended s) (hr : Reaches s u) : ¬ EndsRun u t := by
  rintro ⟨hst, hc, -⟩
  have := ((h.reaches hr).1.step hst).2
  omega

/-- A faulted, refused or denied host completes no command, so its run has no end point. -/
theorem EndsRun.free {s t : State} (h : EndsRun s t) :
    s.fault = none ∧ s.refused = none ∧ ¬ HostDenied s := by
  obtain ⟨hst, hc, -⟩ := h
  rcases step_cases hst with ⟨-, rfl⟩ | ⟨hfree, -⟩
  · simp at hc
  · exact hfree

/-- In the step to the end point the host runs the last command of the stream, or ends a hold with none
behind it. -/
theorem EndsRun.last_command {s t : State} (h : EndsRun s t) :
    (s.arbPhase = .acked ∧ exec .poll s = .next t) ∨
    (s.arbPhase = .idle ∧ ∃ i rest, decode s.stream = .command i rest ∧
      exec i ((s.setStream rest).latchOperands i) = .next t) := by
  obtain ⟨hst, hc, -⟩ := h
  rcases step_cases hst with ⟨-, rfl⟩ | ⟨-, hp | hi | ⟨-, r, -, -, rfl⟩⟩
  · simp at hc
  · exact .inl hp
  · exact .inr hi
  · simp [State.markRefused] at hc

end Sys2Proof.Safety
end

