-- ==== Sys2Proof/Tests/Slice0.lean ====
section
/-! SUPPORT. The model's own tests. Expected results come from spec/95_test_vectors.md (its section is
named at each test), which computes them by hand from the rules. The witnesses at the end show for each
obligation with hypotheses a state and operands that meet them all. -/

namespace Sys2Proof.Tests

open Sys2Proof.Machine Sys2Proof.Safety

/-! ### Small states -/

/-- The state a step answers; reset where it answers none. -/
def after (o : Host.Outcome State Fault Refusal) : State :=
  match o with
  | .next t => t
  | .fault _ => State.reset
  | .refused _ => State.reset

/-- After INIT in TC: Halted, the bus free, every interrupt enabled (R51). -/
def ready : State :=
  { State.reset with initialised := true, ie := true, doorbellIe := true, busen := false }

/-- After INIT with SETTINGS = [1, 0]: the Z80 selected. -/
def readyZ80 : State := { ready with arch := .archZ80, archsel := true, setting0 := 0x01#8 }

/-- After RUN in TC: the guest on the bus, the tick armed (R262 to R264). -/
def running : State :=
  { ready with runstate := .running, busen := true, tickArmed := true }

/-- Inside a handshake with a paused guest (R303). -/
def held : State :=
  { running with busen := false, ack := true, arbPhase := .acked, arbWasRunning := true, req := true }

/-- A running guest with a latched doorbell. -/
def ringing : State := { running with doorbellLatch := true }

/-- A halted guest with a latched doorbell. -/
def ringingHalted : State := { ready with doorbellLatch := true }

/-- A running guest and a request. -/
def requested : State := { running with req := true }

/-- A halted guest and a request. -/
def requestedHalted : State := { ready with req := true }

/-- A handshake whose card releases its request at the next boundary. -/
def releasing : State := { held with schedule := [[.cardReq false]] }

/-- The same with a latched doorbell. -/
def releasingRinging : State := { releasing with doorbellLatch := true }

/-- A handshake over a halted guest, whose card releases its request at the next boundary. -/
def releasingHalted : State :=
  { ready with ack := true, arbPhase := .acked, req := true, schedule := [[.cardReq false]] }

/-- A board whose MBX_EXP_FLAG is not RAM. -/
def flagHole : State := { ready with cfg := { ready.cfg with ramHoles := [(0x0206, 0x0206)] } }

/-- A board without the expansion port. -/
def noPort : State :=
  { ready with cfg := { ready.cfg with hasExpansion := false }, doorbellIe := false }

/-- A board whose address 0x8000 is not RAM. -/
def holed : State := { ready with cfg := { ready.cfg with ramHoles := [(0x8000, 0x8000)] } }

/-- Inside INIT: the doorbell armed, interrupts masked (R246, R247). -/
def masked : State := { ready with ie := false }

/-- A state with some bytes of memory. -/
def withBytes (m : Memory) (s : State) : State := { s with mem := m }

/-- A host that is given no step any more (R351). -/
def denied : State := { ready with hostShare := some 0 }

/-- The same in an endless interleaving. -/
def deniedEndless : State := { denied with endless := true }

/-! ### WellFormed: one ill-formed term for each check (R104, R109) -/

theorem test_wf_accepts_text : (Instr.wrt 0x0300#16 [0x48#8, 0x49#8]).wf = true := by decide

theorem test_wf_refuses_zero_text_byte : (Instr.wrt 0x0300#16 [0x48#8, 0x00#8]).wf = false := by decide

theorem test_wf_refuses_text_over_65535_bytes (a : Addr) (t : List Byte) (h : t.length = 65536) :
    (Instr.wrt a t).wf = false := by
  simp [Instr.wf, textFits, h]

theorem witness_text_over_65535_bytes : (List.replicate 65536 0x41#8).length = 65536 :=
  List.length_replicate

theorem test_tc_configuration_wf : Config.tc.wf = true := by decide

/-! ### Decoding (2.1) -/

theorem test_decode_wrb :
    decode [0x10#8, 0x34#8, 0x12#8, 0x56#8] = .command (.wrb 0x1234#16 0x56#8) [] := by decide

theorem test_decode_rdb : decode [0x11#8, 0x34#8, 0x12#8] = .command (.rdb 0x1234#16) [] := by decide

theorem test_decode_wrw :
    decode [0x20#8, 0x00#8, 0x20#8, 0xEF#8, 0xBE#8] = .command (.wrw 0x2000#16 0xBEEF#16) [] := by
  decide

theorem test_decode_rdw : decode [0x21#8, 0x00#8, 0x20#8] = .command (.rdw 0x2000#16) [] := by decide

theorem test_decode_wrl :
    decode [0x22#8, 0x00#8, 0x30#8, 0x78#8, 0x56#8, 0x34#8, 0x12#8] =
      .command (.wrl 0x3000#16 0x12345678#32) [] := by decide

theorem test_decode_wrt :
    decode [0x23#8, 0x00#8, 0x03#8, 0x02#8, 0x00#8, 0x48#8, 0x49#8] =
      .command (.wrt 0x0300#16 [0x48#8, 0x49#8]) [] := by decide

theorem test_decode_wrt_empty :
    decode [0x23#8, 0x00#8, 0x03#8, 0x00#8, 0x00#8] = .command (.wrt 0x0300#16 []) [] := by decide

theorem test_decode_rds :
    decode [0x24#8, 0x00#8, 0x03#8, 0x10#8, 0x00#8] = .command (.rds 0x0300#16 16#16) [] := by decide

theorem test_decode_vxl : decode [0x30#8, 0x26#8, 0xF8#8] = .command (.vxl 0xF826#16) [] := by decide

theorem test_decode_vwrb :
    decode [0x31#8, 0x4C#8, 0xF8#8, 0x41#8] = .command (.vwrb 0xF84C#16 0x41#8) [] := by decide

theorem test_decode_vrdb : decode [0x32#8, 0x4C#8, 0xF8#8] = .command (.vrdb 0xF84C#16) [] := by decide

theorem test_decode_init_then_stop : decode [0x40#8, 0x43#8] = .command .init [0x43#8] := by decide

theorem test_decode_hrst : decode [0x41#8] = .command .hrst [] := by decide

theorem test_decode_run : decode [0x42#8] = .command .run [] := by decide

theorem test_decode_stop : decode [0x43#8] = .command .stop [] := by decide

theorem test_decode_sarch : decode [0x44#8, 0x01#8] = .command (.sarch .archZ80) [] := by decide

theorem test_decode_sspd : decode [0x45#8, 0x01#8] = .command (.sspd .fast) [] := by decide

theorem test_decode_poll : decode [0x50#8] = .command .poll [] := by decide

theorem test_decode_refuses_reserved :
    ([0x00#8, 0x0F#8, 0x12#8, 0x1F#8, 0x25#8, 0x2F#8, 0x33#8, 0x3F#8, 0x46#8, 0x4F#8, 0x51#8,
      0xFF#8].all fun op => decide (decode [op] = .refuse .illegalCommand)) = true := by decide

theorem test_decode_refuses_selector :
    decode [0x44#8, 0x02#8] = .refuse .badOperand ∧ decode [0x45#8, 0xFF#8] = .refuse .badOperand := by
  decide

theorem test_decode_refuses_zero_text_byte :
    decode [0x23#8, 0x00#8, 0x03#8, 0x02#8, 0x00#8, 0x48#8, 0x00#8] = .refuse .badOperand := by decide

theorem test_decode_refuses_truncated :
    decode [0x10#8, 0x34#8, 0x12#8] = .refuse .truncatedStream ∧
    decode [0x44#8] = .refuse .truncatedStream ∧
    decode [0x23#8, 0x00#8, 0x03#8, 0x03#8, 0x00#8, 0x48#8, 0x49#8] = .refuse .truncatedStream := by
  decide

theorem test_encode_wrl :
    encode (.wrl 0x3000#16 0x12345678#32) =
      [0x22#8, 0x00#8, 0x30#8, 0x78#8, 0x56#8, 0x34#8, 0x12#8] := by decide

theorem test_table_word : decodeTableWord 32 0x56123410 = some (.wrb 0x1234#16 0x56#8) := by decide

theorem test_fetch_word_init : (after (step (State.reset.withFetchWord 8 0x40))).initialised = true := by
  decide

/-! ### Frames (2.2) -/

theorem test_write_frame_lsb_first :
    frame24 .lsbFirst 0x1234#16 0x56#8 =
      [false, false, true, false, true, true, false, false, false, true, false, false, true, false,
        false, false, false, true, true, false, true, false, true, false] := by decide

theorem test_read_frame_msb_first :
    frame16 .msbFirst 0x1234#16 =
      [false, false, false, true, false, false, true, false, false, false, true, true, false, true,
        false, false] := by decide

/-! ### Bus Link and Memory Access Facade (2.3, 2.4) -/

theorem test_wrb :
    let t := after (exec (.wrb 0x1234#16 0x56#8) ready)
    t.memAt 0x1234#16 = 0x56#8 ∧ t.hist = [.cyc .write 0x1234#16 0x56#8] ∧ t.rwn = true := by decide

theorem test_wrb_running_faults :
    let t := after (exec (.wrb 0x1234#16 0x56#8) running)
    t.fault = some .busContention ∧ t.mem = [] ∧ t.hist = [.fault .busContention] := by decide

theorem test_rdb :
    let t := after (exec (.rdb 0x1234#16) (withBytes [(0x1234, 0x56#8)] ready))
    t.q = 0x0056#16 ∧ t.hist = [.cyc .read 0x1234#16 0x56#8] := by decide

theorem test_wrw_wraps :
    let t := after (exec (.wrw 0xFFFF#16 0x1234#16) ready)
    t.memAt 0xFFFF#16 = 0x34#8 ∧ t.memAt 0x0000#16 = 0x12#8 := by decide

theorem test_rdw_wraps :
    (after (exec (.rdw 0xFFFF#16) (withBytes [(0, 0x12#8), (0xFFFF, 0x34#8)] ready))).q =
      0x1234#16 := by decide

theorem test_wrl_wraps :
    let t := after (exec (.wrl 0xFFFD#16 0xAABBCCDD#32) ready)
    t.mem = [(0, 0xAA#8), (0xFFFD, 0xDD#8), (0xFFFE, 0xCC#8), (0xFFFF, 0xBB#8)] := by decide

theorem test_wrt :
    let t := after (exec (.wrt 0x0300#16 [0x48#8, 0x49#8]) (withBytes [(0x0302, 0x77#8)] ready))
    t.mem = [(0x0300, 0x48#8), (0x0301, 0x49#8)] ∧ t.hist.length = 3 := by decide

theorem test_rds :
    let t := after (exec (.rds 0x0300#16 16#16)
      (withBytes [(0x0300, 0x48#8), (0x0301, 0x49#8)] ready))
    t.qbuf = [0x48#8, 0x49#8] ∧ t.qt = true ∧ t.hist.length = 3 := by decide

theorem test_rds_zero_length_while_running :
    let t := after (exec (.rds 0x4000#16 0#16) running)
    t.fault = none ∧ t.qbuf = [] ∧ t.qt = false ∧ t.hist = [] := by decide

/-! ### Video (2.5) -/

theorem test_vxl_row_zero : (after (exec (.vxl 0xF800#16) ready)).q = 0xF7FE#16 := by decide

theorem test_vxl_last_address : (after (exec (.vxl 0xFBFF#16) ready)).q = 0xFC31#16 := by decide

theorem test_vwrb : (after (exec (.vwrb 0xF84C#16 0x41#8) ready)).mem = [(0xF84E, 0x41#8)] := by decide

theorem test_vwrb_outside_while_running :
    (after (exec (.vwrb 0xF000#16 0x41#8) running)).fault = some .badVideoAddr := by decide

theorem test_vrdb_skips_gap :
    (after (exec (.vrdb 0xF84C#16) (withBytes [(0xF84C, 0x99#8)] ready))).q = 0x0000#16 := by decide

/-! ### Lifecycle (2.6 to 2.10) -/

theorem test_init_normalises_settings :
    let t := after (exec .init { State.reset with setting0 := 0x07#8, setting1 := 0x01#8 })
    t.setting0 = 0x00#8 ∧ t.setting1 = 0x01#8 ∧ t.arch = .arch6502 ∧ t.speed = .fast ∧
    t.hist = [.setW .architecture 0x00#8, .line .busen false, .line .reset false, .line .int false,
      .line .ack false, .line .archsel false, .line .speedsel true] := by decide

theorem test_init_twice :
    let t := after (exec .init ready)
    t.fault = some .reinit ∧ t.cpos = 0 := by decide

theorem test_hrst :
    let t := after (exec .hrst readyZ80)
    t.hist = [.line .reset true, .delay .resetPulse, .line .reset false,
      .line .archsel false, .line .reset true, .line .busen true, .delay .hrRunPulse,
      .line .busen false, .delay .hrResetSettle, .line .reset false,
      .line .archsel true, .line .reset true, .line .busen true, .delay .hrRunPulse,
      .line .busen false, .delay .hrResetSettle, .line .reset false,
      .line .archsel true] ∧ t.archsel = true := by decide

theorem test_hrst_from_running :
    let t := after (exec .hrst running)
    t.runstate = .halted ∧ t.tickArmed = false ∧ t.busen = false := by decide

theorem test_run_6502 :
    let t := after (exec .run ready)
    t.hist = [.cyc .write 0x0200#16 0x00#8, .cyc .write 0x0201#16 0x00#8,
      .cyc .write 0x0202#16 0x00#8, .cyc .write 0xFF00#16 0x40#8, .cyc .write 0xFFFC#16 0x00#8,
      .cyc .write 0xFFFD#16 0x08#8, .line .reset true, .delay .resetPulse, .line .reset false,
      .line .busen true] ∧ t.runstate = .running ∧ t.tickArmed = true := by decide

theorem test_run_z80 :
    (after (exec .run readyZ80)).mem =
      [(0, 0xC3#8), (2, 0x08#8), (0x66, 0xED#8), (0x67, 0x45#8)] := by decide

theorem test_stop :
    let t := after (exec .stop running)
    t.hist = [.line .reset true, .line .busen false, .delay .stopSettle, .line .reset false] ∧
    t.runstate = .halted ∧ t.tickArmed = false := by decide

theorem test_sarch :
    let t := after (exec (.sarch .archZ80) ready)
    t.arch = .archZ80 ∧ t.setting0 = 0x01#8 ∧
    t.hist = [.setW .architecture 0x01#8, .line .archsel true] := by decide

theorem test_sarch_running_faults :
    let t := after (exec (.sarch .archZ80) running)
    t.fault = some .archSwitchWhileRunning ∧ t.arch = .arch6502 := by decide

theorem test_sspd :
    let t := after (exec (.sspd .fast) running)
    t.speed = .fast ∧ t.setting1 = 0x01#8 ∧
    t.hist = [.setW .speed 0x01#8, .line .speedsel true] := by decide

/-! ### Interrupts and POLL (2.11, 2.12) -/

theorem test_tick :
    (running.move .tick).hist =
      [.tickFire, .line .int true, .line .int false, .intPulse .tick] := by decide

theorem test_doorbell_edge : (ready.move (.cardDbell true)).doorbellLatch = true := by decide

theorem test_poll_grants :
    let t := after (exec .poll requested)
    t.hist = [.line .busen false, .line .ack true] ∧ t.arbPhase = .acked ∧ t.cpos = 0 := by decide

theorem test_poll_delivers :
    let t := after (exec .poll ringing)
    t.hist = [.line .busen false, .cyc .write 0x0206#16 0x01#8, .line .busen true, .line .int true,
      .line .int false, .intPulse .doorbell] ∧ t.doorbellLatch = false := by decide

theorem test_release_then_delivery :
    (after (step releasingRinging)).hist =
      [.req false, .line .ack false, .line .busen true, .line .busen false,
        .cyc .write 0x0206#16 0x01#8, .line .busen true, .line .int true, .line .int false,
        .intPulse .doorbell] ∧
    (after (step releasingRinging)).mem = [(0x0206, 0x01#8)] := by decide

theorem test_hold_then_release :
    (after (step held)).hist = [] ∧
    (after (step releasing)).hist =
      [.req false, .line .ack false, .line .busen true] := by decide

/-! ### The end of a run (70_reset_and_hazards R406) -/

theorem reset_is_launch : Launch State.reset :=
  ⟨by decide, by unfold PowerOn; decide, rfl, by decide⟩

theorem test_init_ends_its_run :
    EndOfRun (State.reset.setStream [0x40#8]) (after (step (State.reset.setStream [0x40#8]))) :=
  ⟨reset_is_launch, _, .refl _, rfl, by decide, by unfold HostFree; decide, by decide⟩

/-! ### Scheduling (60_exceptions R351) -/

/-- STOP whose host is given two micro-steps: the check and the disarm. RESET is not driven, and the
guest stays released. -/
theorem test_host_denied_inside_stop :
    let t := after (exec .stop { running with hostShare := some 2 })
    t.tickArmed = false ∧ t.busen = true ∧ t.runstate = .running ∧ t.cpos = 0 ∧ t.hist = [] ∧
    t.hostShare = some 0 := by decide

/-- RDS whose host is given three micro-steps: the check and two read cycles. What is read so far stands in
QBUF (R180), and the terminator is never read. -/
theorem test_host_denied_inside_rds :
    let t := after (exec (.rds 0x0300#16 16#16)
      (withBytes [(0x0300, 0x48#8), (0x0301, 0x49#8)] (ready.setHostShare (some 3))))
    t.qbuf = [0x48#8, 0x49#8] ∧ t.qt = false ∧ t.cpos = 0 ∧ t.hostShare = some 0 := by decide

/-- A faulting RDS leaves QBUF and QT as they were (2.4). -/
theorem test_rds_running_keeps_string :
    let t := after (exec (.rds 0x4000#16 1#16) (running.setString [0x41#8] true))
    t.fault = some .busContention ∧ t.qbuf = [0x41#8] ∧ t.qt = true := by decide

/-- A denied host never fetches its command, and the guest goes on writing. -/
theorem test_denied_host_takes_no_step :
    let s := { running with hostShare := some 0, schedule := [[.guestWrite 0x1234#16 0x56#8]] }
    let t := after (step (s.setStream [0x43#8]))
    t.stream = [0x43#8] ∧ t.hist = [.gWrite 0x1234#16 0x56#8] := by decide

/-- In an endless interleaving the others' moves never run out: each boundary uses up a draw. -/
theorem test_endless_moves_go_on :
    deniedEndless.others = State.moves (Config.freeMoves 0) deniedEndless.useMoveDraw := rfl

/-! ### Faults (2.13) -/

theorem test_stop_before_init :
    let t := after (step (State.reset.withFetchWord 8 0x43))
    t.fault = some .notInitialised ∧ t.cpos = 0 := by decide

/-! ### Witnesses: a state and operands for the hypotheses of each obligation -/

theorem hostFree_ready : HostFree ready := ⟨rfl, rfl, rfl⟩

theorem canCycle_ready : CanCycle ready := ⟨rfl, rfl, rfl, rfl⟩

theorem noBusWrites_ready : NoBusWrites ready := ⟨by decide, fun h => absurd h (by decide)⟩

theorem invReady_ready : InvReady ready := by unfold InvReady; decide

theorem machineInv_ready : MachineInv ready :=
  ⟨by decide, rfl, fun _ => by decide, fun _ =>
    ⟨fun _ => invReady_ready, fun h => absurd h (by decide)⟩⟩

theorem invReady_running : InvReady running := by unfold InvReady; decide

theorem machineInv_running : MachineInv running :=
  ⟨by decide, rfl, fun _ => by decide, fun _ =>
    ⟨fun _ => invReady_running, fun h => absurd h (by decide)⟩⟩

theorem invReady_held : InvReady held := by unfold InvReady; decide

theorem machineInv_held : MachineInv held :=
  ⟨by decide, rfl, fun _ => by decide, fun _ =>
    ⟨fun _ => invReady_held, fun h => absurd h (by decide)⟩⟩

theorem witness_DecodeGivesBackEncodedCommand :
    (Instr.wrt 0x0300#16 [0x48#8, 0x49#8]).wf = true := by decide

theorem witness_DecodedStreamBeginsWithItsWords :
    decode [0x44#8, 0x01#8, 0x50#8] = .command (.sarch .archZ80) [0x50#8] := by decide

theorem witness_ReservedOpcodeIsIllegalCommand :
    [0x00#8, 0x0F#8, 0x12#8, 0x1F#8, 0x25#8, 0x2F#8, 0x33#8, 0x3F#8, 0x46#8, 0x4F#8, 0x51#8,
      0xFF#8].all (fun op : Byte => decide
        (op.toNat ≤ 0x0F ∨ (0x12 ≤ op.toNat ∧ op.toNat ≤ 0x1F) ∨ (0x25 ≤ op.toNat ∧ op.toNat ≤ 0x2F) ∨
          (0x33 ≤ op.toNat ∧ op.toNat ≤ 0x3F) ∨ (0x46 ≤ op.toNat ∧ op.toNat ≤ 0x4F) ∨
          0x51 ≤ op.toNat)) = true := by decide

theorem witness_BadOperandBytesAreRefused :
    1 < (0x02#8).toNat ∧ 1 < (0xFF#8).toNat ∧
    [0x48#8, 0x00#8].length = (0x02#8).toNat + 256 * (0x00#8).toNat ∧ 0x00#8 ∈ [0x48#8, 0x00#8] := by
  decide

theorem witness_ShortStreamIsTruncated :
    Instr.wf (.sarch .archZ80) = true ∧ encode (.sarch .archZ80) = [0x44#8] ++ [0x01#8] := by decide

theorem witness_StepRunsDecodedCommand :
    HostFree (ready.setStream [0x50#8]) ∧
    decode (ready.setStream [0x50#8]).stream = .command .poll [] ∧
    ¬ HostDenied (ready.setStream [0x50#8]) := ⟨⟨rfl, rfl, rfl⟩, rfl, by decide⟩

theorem witness_StepRunsDecodedCommand_denied :
    HostFree (denied.setStream [0x50#8]) ∧
    decode (denied.setStream [0x50#8]).stream = .command .poll [] ∧
    HostDenied (denied.setStream [0x50#8]) := ⟨⟨rfl, rfl, rfl⟩, rfl, rfl⟩

theorem witness_RefusalMarkIsSetAndKept_refusal :
    HostFree (ready.setStream [0x00#8]) ∧ ¬ HostDenied (ready.setStream [0x00#8]) ∧
    (ready.setStream [0x00#8]).stream ≠ [] ∧
    decode (ready.setStream [0x00#8]).stream = .refuse .illegalCommand :=
  ⟨⟨rfl, rfl, rfl⟩, by decide, by decide, rfl⟩

theorem witness_RefusalMarkIsSetAndKept_kept :
    ∃ t, step { ready with refused := some ⟨.illegalCommand, 0⟩, schedule := [[.cardReq true]] } =
      .next t := ⟨_, rfl⟩

theorem witness_FaultIsRaisedOnceAndStopsTheHost :
    ready.fault = none ∧
    ∃ t, step { ready with fault := some .reinit, schedule := [[.cardReq true]] } = .next t :=
  ⟨rfl, _, rfl⟩

theorem witness_CommandCompletesOrFaultsPrecisely :
    Instr.run ≠ .poll ∧ Instr.run ≠ .init ∧ HostServed ready ∧ NoMoves ready := by decide

theorem witness_InitialisationIsCheckedFirst :
    (Instr.poll ≠ .init ∧ (Instr.poll = .poll → State.reset.arbPhase = .idle) ∧
      ¬ HostDenied State.reset ∧ State.reset.initialised = false) ∧ ¬ HostDenied ready ∧
    ready.initialised = true ∧ HostServed ready := by decide

theorem witness_CycleOnBusyLinkOrBusFaults_reentry :
    HostServed (ready.setLinkBusy true) ∧
    makesCycle (ready.setLinkBusy true).cfg .run = true ∧ (ready.setLinkBusy true).initialised = true ∧
    (ready.setLinkBusy true).linkBusy = true := by decide

theorem witness_CycleOnBusyLinkOrBusFaults_guest :
    HostServed running ∧
    makesCycle running.cfg (.rds 0x4000#16 1#16) = true ∧ running.initialised = true ∧
    running.linkBusy = false ∧ running.busen = true := by decide

theorem witness_CycleOnBusyLinkOrBusFaults_card :
    HostServed held ∧ makesCycle held.cfg (.vrdb 0xFBFF#16) = true ∧ held.initialised = true ∧
    held.linkBusy = false ∧ held.acked = true := by decide

theorem witness_VideoCommandOutsideRegionFaults :
    ¬ HostDenied running ∧
    running.initialised = true ∧ (0xF7FF#16).toNat < running.cfg.videoBase.toNat ∧
    running.cfg.videoBase.toNat + running.cfg.videoSize ≤ (0xFC00#16).toNat := by decide

theorem witness_ArchSwitchWhileRunningFaults :
    ¬ HostDenied running ∧
    running.initialised = true ∧ running.runstate = .running ∧ Arch.archZ80 ≠ running.arch := by decide

theorem witness_PowerOnMeetsInvariant : PowerOn State.reset ∧ Memory.wf State.reset.mem = true := by
  unfold PowerOn; decide

theorem witness_StepKeepsMachineInvariant : MachineInv held ∧ ∃ t, step held = .next t :=
  ⟨machineInv_held, _, rfl⟩

/-- Between the two micro-steps of a HRST whose host is denied. -/
theorem witness_StepKeepsMachineInvariant_denied :
    MachineInv { denied with resetLine := true } :=
  ⟨by decide, rfl, fun _ => by decide, fun h => absurd rfl h⟩

theorem witness_HistoryRespectsBusOwnership :
    MachineInv running ∧ running.initialised = true ∧ ∃ t, step running = .next t :=
  ⟨machineInv_running, rfl, _, rfl⟩

theorem witness_NoTickFiresWhileDisarmed : ready.tickArmed = false ∧ ∃ t, step ready = .next t :=
  ⟨rfl, _, rfl⟩

theorem witness_RunstateChangesOnlyByLifecycle :
    (∃ t, exec .run ready = .next t ∧ t.runstate ≠ ready.runstate) ∧
    (∃ t, exec .stop running = .next t ∧ t.runstate ≠ running.runstate) ∧
    ∃ t, exec .hrst running = .next t ∧ t.runstate ≠ running.runstate :=
  ⟨⟨_, rfl, by decide⟩, ⟨_, rfl, by decide⟩, ⟨_, rfl, by decide⟩⟩

/-- For WRB, RDB, the round trip, FRAME_ORDER, WRW, RDW, WRL and RDS, at the top of memory. -/
theorem witness_bus_commands :
    CanCycle ready ∧ inRam ready.cfg 0xFFFF#16 = true ∧ inRam ready.cfg (0xFFFF#16 + 1#16) = true :=
  ⟨canCycle_ready, by decide, by decide⟩

/-- For the clause that leaves a byte outside RAM_SET alone. -/
theorem witness_outside_ram :
    CanCycle holed ∧ inRam holed.cfg 0x8000#16 = false ∧ inRam holed.cfg 0x8001#16 = true :=
  ⟨⟨rfl, rfl, rfl, rfl⟩, by decide, by decide⟩

theorem witness_WrtStoresTextAndTerminator :
    CanCycle ready ∧ [0x5A#8].length < 65536 ∧ inRam ready.cfg (0xFFFF#16 + BitVec.ofNat 16 1) = true :=
  ⟨canCycle_ready, by decide, by decide⟩

theorem witness_RdsReadsUpToTerminator_zero :
    CanCycle ready ∧
    (∀ j : Nat, j < (2#16).toNat → inRam ready.cfg (0xFFFF#16 + BitVec.ofNat 16 j) = true) ∧
    ready.memAt (0xFFFF#16 + BitVec.ofNat 16 0) = 0x00#8 :=
  ⟨canCycle_ready, by decide, by decide⟩

theorem witness_RdsReadsUpToTerminator_none :
    ∀ j : Nat, j < (2#16).toNat →
      (withBytes [(0, 0x42#8), (0xFFFF, 0x41#8)] ready).memAt (0xFFFF#16 + BitVec.ofNat 16 j) ≠
        0x00#8 := by decide

theorem witness_RdsStopsAtFirstZeroRead_cut_short :
    ∃ t, exec (.rds 0xFFFF#16 2#16) (withBytes [(0xFFFF, 0x41#8)] (ready.setHostShare (some 2))) =
      .next t ∧ CutShort (withBytes [(0xFFFF, 0x41#8)] (ready.setHostShare (some 2))) t ∧
      t.qbuf = [0x41#8] :=
  ⟨_, rfl, ⟨rfl, rfl, rfl⟩, rfl⟩

theorem witness_RdsStopsAtFirstZeroRead_cut_before_reading :
    (∃ t, exec (.rds 0xFFFF#16 2#16) (ready.setHostShare (some 1)) = .next t ∧
      CutShort (ready.setHostShare (some 1)) t ∧ t.hist = []) ∧
    ∃ t, exec (.rds 0xFFFF#16 2#16) (running.setHostShare (some 1)) = .next t ∧
      CutShort (running.setHostShare (some 1)) t :=
  ⟨⟨_, rfl, ⟨rfl, rfl, rfl⟩, rfl⟩, _, rfl, rfl, rfl, rfl⟩

theorem witness_RdsOfLengthZeroMakesNoCycle :
    HostServed running ∧ running.initialised = true := by decide

theorem witness_StoreCommandsKeepTheRest :
    isStore (.wrl 0xFFFF#16 0x01020304#32) = true ∧
    ∃ t, exec (.wrl 0xFFFF#16 0x01020304#32) ready = .next t := ⟨rfl, _, rfl⟩

theorem witness_ReadCommandsKeepTheRest :
    isRead (.rdw 0xFFFF#16) = true ∧ ∃ t, exec (.rdw 0xFFFF#16) ready = .next t := ⟨rfl, _, rfl⟩

/-- For VXL, VWRB and VRDB at both ends of VR. -/
theorem witness_video_commands :
    CanCycle ready ∧ ready.cfg.videoBase.toNat ≤ (0xF800#16).toNat ∧
    (0xFBFF#16).toNat < ready.cfg.videoBase.toNat + ready.cfg.videoSize ∧
    (0xF7FE#16).toNat = ((0xF800#16).toNat + ready.cfg.videoBias.toNat +
      2 * (((0xF800#16).toNat - ready.cfg.videoBase.toNat) / 38) + 65536 - 2) % 65536 :=
  ⟨canCycle_ready, by decide, by decide, by decide⟩

theorem witness_VideoMapHasStrideFortyAndGaps :
    Config.tc.videoBase.toNat + Config.tc.videoSize ≤ 65536 ∧ 1 ≤ Config.tc.videoSize ∧
    38 * 26 + 35 < Config.tc.videoSize ∧ 40 * ((Config.tc.videoSize - 1) / 38) + 38 ≤ 65536 ∧
    inVideoRegion Config.tc 0xF800#16 = true ∧ inVideoRegion Config.tc 0xFBFF#16 = true := by decide

theorem witness_InitSetsUpTheEngine :
    HostServed State.reset ∧ State.reset.initialised = false ∧ NoMoves State.reset := by decide

theorem witness_InitKeepsTheRest :
    NoBusWrites State.reset ∧ ∃ t, exec .init State.reset = .next t :=
  ⟨noBusWrites_ready, _, rfl⟩

/-- For VXL, and for HRST, STOP and SSPD from both run states. -/
theorem witness_initialised :
    HostServed ready ∧ ready.initialised = true ∧ HostServed running ∧ running.initialised = true := by
  decide

theorem witness_RunBootsTheSelectedGuest :
    CanCycle ready ∧ CanCycle readyZ80 ∧ NoBusWrites ready ∧ ready.arch = .arch6502 ∧
    readyZ80.arch = .archZ80 := ⟨canCycle_ready, ⟨rfl, rfl, rfl, rfl⟩, noBusWrites_ready, rfl, rfl⟩

theorem witness_SarchSelectsTheArchitecture :
    HostServed ready ∧
    ready.initialised = true ∧ ready.runstate = .halted ∧ HostServed running ∧ running.initialised = true ∧
    Arch.arch6502 = running.arch := by decide

theorem witness_GuestControlCommandsKeepTheRest :
    NoMoves ready ∧ (∃ t, exec .hrst ready = .next t) ∧ (∃ t, exec .run ready = .next t) ∧
    ∃ t, exec .stop ready = .next t := ⟨⟨rfl, rfl⟩, ⟨_, rfl⟩, ⟨_, rfl⟩, _, rfl⟩

/-- A boot byte, and an address RUN leaves alone. -/
theorem witness_GuestControlCommandsKeepTheRest_memory :
    NoBusWrites ready ∧ 0x0200#16 ∈ (bootBytes ready.cfg ready.arch).map Prod.fst ∧
    0x0203#16 ∉ (bootBytes ready.cfg ready.arch).map Prod.fst :=
  ⟨noBusWrites_ready, by decide, by decide⟩

theorem witness_SelectorCommandsKeepTheRest :
    (∃ t, exec (.sarch .archZ80) ready = .next t) ∧ ∃ t, exec (.sspd .fast) running = .next t :=
  ⟨⟨_, rfl⟩, _, rfl⟩

theorem witness_PollWithNothingToDo :
    HostServed ready ∧
    ready.initialised = true ∧ ready.arbPhase = .idle ∧ ready.cfg.hasExpansion = true ∧
    (State.waits 2 ready).req = false ∧ (State.waits 3 ready).doorbellLatch = false := by decide

theorem witness_PollWithNothingToDo_no_port :
    HostServed noPort ∧
    noPort.initialised = true ∧ noPort.arbPhase = .idle ∧ noPort.cfg.hasExpansion = false := by decide

theorem witness_PollGrantsTheBus :
    HostServed requested ∧
    requested.initialised = true ∧ requested.arbPhase = .idle ∧ requested.cfg.hasExpansion = true ∧
    (State.waits 2 requested).req = true := by decide

theorem witness_PollGrantsTheBus_halted :
    HostServed requestedHalted ∧
    requestedHalted.initialised = true ∧ requestedHalted.arbPhase = .idle ∧
    requestedHalted.cfg.hasExpansion = true ∧ (State.waits 2 requestedHalted).req = true ∧
    requestedHalted.isRunning = false := by decide

theorem witness_PollHoldsWhileRequested :
    held.fault = none ∧ held.refused = none ∧ held.arbPhase = .acked ∧ held.others.req = true := by
  decide

theorem witness_PollHoldsWhileRequested_denied :
    HostDenied (releasing.setHostShare (some 0)) ∧
    (releasing.setHostShare (some 0)).arbPhase = .acked := by decide

theorem witness_PollReleasesTheBus :
    HostServed releasing ∧
    releasing.arbPhase = .acked ∧ releasing.others.req = false ∧ releasing.linkBusy = false ∧
    6 = (if releasing.arbWasRunning then 6 else 5) ∧ NoMoves releasing.others := by decide

theorem witness_PollReleasesTheBus_delivers :
    HostServed releasingRinging ∧
    releasingRinging.arbPhase = .acked ∧ releasingRinging.others.req = false ∧
    releasingRinging.linkBusy = false ∧ 6 = (if releasingRinging.arbWasRunning then 6 else 5) ∧
    true = ((State.waits 6 releasingRinging).doorbellLatch && releasingRinging.isRunning) := by
  decide

theorem witness_PollReleasesTheBus_halted :
    HostServed releasingHalted ∧
    releasingHalted.arbPhase = .acked ∧ releasingHalted.others.req = false ∧
    releasingHalted.linkBusy = false ∧ 5 = (if releasingHalted.arbWasRunning then 6 else 5) ∧
    false = ((State.waits 5 releasingHalted).doorbellLatch && releasingHalted.isRunning) := by
  decide

theorem noBusWrites_releasing : NoBusWrites releasing :=
  ⟨by decide, fun h => absurd h (by decide)⟩

theorem witness_PollDeliversDoorbell :
    HostServed ringing ∧
    ringing.initialised = true ∧ ringing.arbPhase = .idle ∧ ringing.cfg.hasExpansion = true ∧
    ringing.linkBusy = false ∧ ringing.acked = false ∧ ringing.runstate = .running ∧
    (State.waits 2 ringing).req = false ∧ (State.waits 3 ringing).doorbellLatch = true ∧
    NoMoves ringing := by decide

theorem witness_PollDropsDoorbellWhileHalted :
    HostServed ringingHalted ∧ ringingHalted.initialised = true ∧ ringingHalted.arbPhase = .idle ∧
    ringingHalted.cfg.hasExpansion = true ∧ ringingHalted.runstate = .halted ∧
    (State.waits 2 ringingHalted).req = false ∧
    (State.waits 3 ringingHalted).doorbellLatch = true := by decide

theorem witness_PollNeverFaults :
    MachineInv held ∧ held.initialised = true ∧ held.fault = none := ⟨machineInv_held, rfl, rfl⟩

theorem witness_PollKeepsTheRest :
    NoBusWrites ready ∧ NoMoves ready ∧ ∃ t, exec .poll ready = .next t :=
  ⟨noBusWrites_ready, ⟨rfl, rfl⟩, _, rfl⟩

theorem witness_PollKeepsTheRest_no_cycle :
    NoBusWrites ready ∧ ∃ t, exec .poll ready = .next t ∧ t.hist = ready.hist ++ [] ∧
      Event.cyc .write ready.cfg.mbxExpFlag 0x01#8 ∉ ([] : List Event) :=
  ⟨noBusWrites_ready, _, rfl, rfl, by decide⟩

theorem witness_PollKeepsTheRest_not_ram :
    inRam flagHole.cfg flagHole.cfg.mbxExpFlag = false ∧ ∃ t, exec .poll flagHole = .next t :=
  ⟨by decide, _, rfl⟩

/-- A share one short of what POLL takes, and one that is just enough, with a doorbell to deliver. -/
theorem witness_PollKeepsTheRest_share :
    pollTurns (ringing.setHostShare (some 9)) = 10 ∧ ringing.linkBusy = false ∧
    ringing.acked = false ∧ pollTurns (ringing.setHostShare (some 10)) ≤ 10 ∧
    (∃ t, exec .poll (ringing.setHostShare (some 9)) = .next t) ∧
    ∃ t, exec .poll (ringing.setHostShare (some 10)) = .next t :=
  ⟨by decide, rfl, by decide, by decide, ⟨_, rfl⟩, _, rfl⟩

/-- The same in a hold whose card has released its request. -/
theorem witness_PollKeepsTheRest_share_hold :
    pollTurns (releasingRinging.setHostShare (some 12)) = 13 ∧ releasingRinging.linkBusy = false ∧
    ∃ t, exec .poll (releasingRinging.setHostShare (some 12)) = .next t :=
  ⟨by decide, rfl, _, rfl⟩

theorem witness_TickPulsesInt :
    running.tickArmed = true ∧ running.ie = true ∧ ready.tickArmed = false ∧
    State.reset.ie = false := by decide

theorem witness_DoorbellEdgeIsLatchedMaskedOrIgnored :
    ready.cfg.hasExpansion = true ∧ ready.dbell ≠ true ∧ ready.doorbellIe = true ∧ ready.ie = true := by
  decide

theorem witness_DoorbellEdgeIsLatchedMaskedOrIgnored_masked :
    masked.cfg.hasExpansion = true ∧ masked.dbell ≠ true ∧ masked.doorbellIe = true ∧
    masked.ie = false ∧ masked.cfg.maskedEdge = .either := by decide

theorem witness_DoorbellEdgeIsLatchedMaskedOrIgnored_policies :
    ({ masked with cfg := { masked.cfg with maskedEdge := .lost } } : State).cfg.maskedEdge = .lost ∧
    ({ masked with cfg := { masked.cfg with maskedEdge := .deferred } } : State).cfg.maskedEdge =
      .deferred := by decide

theorem witness_DoorbellEdgeIsLatchedMaskedOrIgnored_unarmed :
    State.reset.cfg.hasExpansion = true ∧ State.reset.dbell ≠ true ∧
    State.reset.doorbellIe = false := by decide

theorem witness_DoorbellEdgeIsLatchedMaskedOrIgnored_pending :
    { ready with dbPending := true }.dbPending = true ∧ { ready with dbPending := true }.ie = true ∧
    ready.dbPending = false ∧ { masked with dbPending := true }.ie = false := by decide

theorem witness_OnlyTheBusOwnerWritesMemory :
    running.busen = true ∧ ready.busen = false ∧ held.acked = true ∧ running.acked = false := by decide

theorem witness_OnlyTheBusOwnerWritesMemory_request :
    ready.cfg.hasExpansion = true ∧ ready.req ≠ true ∧ noPort.cfg.hasExpansion = false := by decide

theorem witness_OtherAgentsKeepHostState : ready.busFree = true := by decide

end Sys2Proof.Tests
end

section
/-! The state family (10_state): the operand registers, the power-on values, and the machine's invariant
at power-on. -/

namespace Sys2Proof.Safety

open Sys2Proof.Machine

theorem powerOn_reset : PowerOn State.reset := by
  unfold PowerOn
  decide

/-- Of the power-on values those the invariant asks for before INIT. -/
theorem PowerOn.invPowerOn {s : State} (h : PowerOn s) : InvPowerOn s := by
  obtain ⟨hrun, htick, hlatch, hpend, hie, hdbie, -, -, hphase, hwas, -⟩ := h
  exact ⟨hrun, htick, hlatch, hpend, hie, hdbie, hphase, hwas⟩

/-- At power-on INITIALISED is 0, so what the invariant says of the time after INIT asks nothing. -/
theorem PowerOn.machineInv {s : State} (h : PowerOn s) (hmem : Memory.wf s.mem = true) :
    MachineInv s := by
  have hpre := h.invPowerOn
  obtain ⟨-, -, -, -, -, -, hinit, hbusy, -⟩ := h
  have notReady : s.initialised ≠ true := by simp [hinit]
  exact ⟨hmem, hbusy, fun hi => absurd hi notReady,
    fun _ => ⟨fun hi => absurd hi notReady, fun _ => hpre⟩⟩

/-- Settles O8: for each format, the registers it names are the fields `latchOperands` updates. -/
theorem operandRegistersHoldDecodedOperands :
    Obligations.OperandRegistersHoldDecodedOperands := by
  intro s a d8 d16 n d32 t x y
  refine ⟨?wrb, ?wrw, ?wrl, ?wrt, ?rds, ?rdb, ?rdw, ?vxl, ?vrdb, ?vwrb, ?sarch, ?sspd⟩
  case wrt => exact ⟨rfl, rfl, rfl⟩
  case wrb | wrw | wrl | vwrb | rds => exact ⟨rfl, rfl⟩
  case rdb | rdw | vxl | vrdb | sarch | sspd => rfl

/-- Settles O11: the values R50 lists, and the refusal mark of log 12. -/
theorem resetIsPowerOnState : Obligations.ResetIsPowerOnState :=
  ⟨powerOn_reset, rfl⟩

/-- Settles O17: reset is itself a power-on state, and its memory is canonical. -/
theorem powerOnMeetsInvariant : Obligations.PowerOnMeetsInvariant :=
  ⟨powerOn_reset.machineInv Memory.wf_reset, fun _ h hmem => h.machineInv hmem⟩

end Sys2Proof.Safety
end

section
/-! The memory family (20_memory): who owns the bus writes memory. The moves of the guest and of the
card, by whether their agent is enabled. -/

namespace Sys2Proof.Machine

/-! ### A move, by whether its agent is enabled -/

theorem State.move_of_enabled {s : State} {m : Move} (h : s.enabled m = true) :
    s.move m = s.perform m := if_pos h

theorem State.move_of_not_enabled {s : State} {m : Move} (h : s.enabled m = false) :
    s.move m = s := by simp [State.move, h]

@[simp] theorem State.enabled_guestWrite (s : State) (a : Addr) (v : Byte) :
    s.enabled (.guestWrite a v) = s.busen := rfl

@[simp] theorem State.enabled_cardWrite (s : State) (a : Addr) (v : Byte) :
    s.enabled (.cardWrite a v) = s.acked := rfl

@[simp] theorem State.enabled_cardReq (s : State) (v : Bool) :
    s.enabled (.cardReq v) = (s.cfg.hasExpansion && (s.req != v)) := rfl

@[simp] theorem State.enabled_cardDbell (s : State) (v : Bool) :
    s.enabled (.cardDbell v) = (s.cfg.hasExpansion && (s.dbell != v)) := rfl

/-- Without the port ACK reads as 0 (log 15). -/
theorem State.acked_of_noExpansion {s : State} (h : s.cfg.hasExpansion = false) :
    s.acked = false := by simp [State.acked, h]

/-! ### The store of the guest and of the card -/

/-- The store an agent makes, seen from any address: recording its event touches no byte. -/
theorem State.memAt_emit_setMem (a b : Addr) (v : Byte) (e : Event) (s : State) :
    ((s.setMem a v).emit e).memAt b = if b = a then v else s.memAt b :=
  calc ((s.setMem a v).emit e).memAt b = (s.setMem a v).memAt b := rfl
    _ = if a = b then v else s.memAt b := s.memAt_setMem a b v
    _ = if b = a then v else s.memAt b := by simp only [eq_comm]

theorem State.memAt_guestStore (a b : Addr) (v : Byte) (s : State) :
    (s.guestStore a v).memAt b = if b = a then v else s.memAt b := s.memAt_emit_setMem a b v _

theorem State.memAt_cardStore (a b : Addr) (v : Byte) (s : State) :
    (s.cardStore a v).memAt b = if b = a then v else s.memAt b := s.memAt_emit_setMem a b v _

@[simp] theorem State.guestStore_hist (a : Addr) (v : Byte) (s : State) :
    (s.guestStore a v).hist = s.hist ++ [.gWrite a v] := by simp [State.guestStore]

@[simp] theorem State.cardStore_hist (a : Addr) (v : Byte) (s : State) :
    (s.cardStore a v).hist = s.hist ++ [.xWrite a v] := by simp [State.cardStore]

/-! ### The moves of the guest and of the card -/

/-- The guest owns the bus: its write is the store (60_exceptions R372). -/
theorem State.move_guestWrite {s : State} (a : Addr) (v : Byte) (h : s.busen = true) :
    s.move (.guestWrite a v) = s.guestStore a v := State.move_of_enabled (by simpa using h)

/-- The card owns the bus: its write is the store (60_exceptions R370). -/
theorem State.move_cardWrite {s : State} (a : Addr) (v : Byte) (h : s.acked = true) :
    s.move (.cardWrite a v) = s.cardStore a v := State.move_of_enabled (by simpa using h)

/-- With the port, a change of REQ is a step of the card (60_exceptions R370). -/
theorem State.move_cardReq {s : State} {level : Bool} (hport : s.cfg.hasExpansion = true)
    (hreq : s.req ≠ level) : s.move (.cardReq level) = s.changeReq level :=
  State.move_of_enabled (by simp [hport, hreq])

end Sys2Proof.Machine

namespace Sys2Proof.Safety

open Sys2Proof.Machine

/-- Settles O59: each owner's write is its store, and a move whose agent is not enabled changes nothing;
without the port no move of the card is enabled. -/
theorem onlyTheBusOwnerWritesMemory : Obligations.OnlyTheBusOwnerWritesMemory := by
  intro s a b v
  refine ⟨fun hb => ?guestOwns, fun hb => ?guestOff, fun ha => ?cardOwns, fun ha => ?cardOff,
    fun level hport hreq => ?request, fun level hport => ?noPort⟩
  case guestOwns =>
    rw [State.move_guestWrite a v hb]
    exact ⟨s.memAt_guestStore a b v, s.guestStore_hist a v⟩
  case guestOff => exact State.move_of_not_enabled (by simpa using hb)
  case cardOwns =>
    rw [State.move_cardWrite a v ha]
    exact ⟨s.memAt_cardStore a b v, s.cardStore_hist a v⟩
  case cardOff => exact State.move_of_not_enabled (by simpa using ha)
  case request => exact State.move_cardReq hport hreq
  case noPort =>
    exact ⟨State.move_of_not_enabled (by simp [hport]), State.move_of_not_enabled (by simp [hport]),
      State.move_of_not_enabled (by simpa using State.acked_of_noExpansion hport)⟩

end Sys2Proof.Safety
end

section
/-! The encoding family (30_encoding): what each format's decoder reads, as an equivalence with the bytes
that spell it; which refusals a longer stream keeps; and the decoder on a whole command, both ways. -/

namespace Sys2Proof

/-! ### The length word and the selectors -/

theorem toNat_joinBytes (lo hi : Byte) : (joinBytes lo hi).toNat = lo.toNat + 256 * hi.toNat := by
  rw [joinBytes, BitVec.toNat_append, ← Nat.shiftLeft_add_eq_or_of_lt lo.isLt, Nat.shiftLeft_eq]
  omega

/-- The length word of a text that fits in it counts the text (R104). -/
theorem toNat_lengthWord {t : List Byte} (h : textFits t = true) :
    (BitVec.ofNat 16 t.length).toNat = t.length := by
  simpa [textFits] using h

theorem textFits_of_length_eq {t : List Byte} {n : Word16} (h : t.length = n.toNat) :
    textFits t = true := by
  simpa [textFits, h] using n.isLt

theorem lengthWord_of_length_eq {t : List Byte} {n : Word16} (h : t.length = n.toNat) :
    BitVec.ofNat 16 t.length = n := by
  rw [h, BitVec.ofNat_toNat, BitVec.setWidth_eq]

theorem textNonzero_of_zero_mem {t : List Byte} (h : 0x00#8 ∈ t) : textNonzero t = false := by
  simpa [textNonzero] using h

theorem Arch.ofCode_of_one_lt {b : Byte} (h : 1 < b.toNat) : Arch.ofCode b = none := by
  have h0 : b ≠ 0x00#8 := by rintro rfl; simp at h
  have h1 : b ≠ 0x01#8 := by rintro rfl; simp at h
  simp [Arch.ofCode, h0, h1]

theorem Speed.ofCode_of_one_lt {b : Byte} (h : 1 < b.toNat) : Speed.ofCode b = none := by
  have h0 : b ≠ 0x00#8 := by rintro rfl; simp at h
  have h1 : b ≠ 0x01#8 := by rintro rfl; simp at h
  simp [Speed.ofCode, h0, h1]

/-! ### The command each format's decoder reads (R101) -/

theorem decodeFA_eq_command_iff {k : Addr → Instr} {l rest : List Byte} {i : Instr} :
    decodeFA k l = .command i rest ↔ ∃ a, i = k a ∧ l = bytes16 a ++ rest := by
  constructor
  · intro h
    unfold decodeFA at h
    split at h
    · next al ah tail => cases h; exact ⟨joinBytes al ah, rfl, by simp [bytes16]⟩
    · cases h
  · rintro ⟨a, rfl, rfl⟩
    simp [decodeFA, bytes16]

theorem decodeFAB_eq_command_iff {k : Addr → Byte → Instr} {l rest : List Byte} {i : Instr} :
    decodeFAB k l = .command i rest ↔ ∃ a d, i = k a d ∧ l = (bytes16 a ++ [d]) ++ rest := by
  constructor
  · intro h
    unfold decodeFAB at h
    split at h
    · next al ah d tail => cases h; exact ⟨joinBytes al ah, d, rfl, by simp [bytes16]⟩
    · cases h
  · rintro ⟨a, d, rfl, rfl⟩
    simp [decodeFAB, bytes16]

theorem decodeFAW_eq_command_iff {k : Addr → Word16 → Instr} {l rest : List Byte} {i : Instr} :
    decodeFAW k l = .command i rest ↔
      ∃ a d, i = k a d ∧ l = (bytes16 a ++ bytes16 d) ++ rest := by
  constructor
  · intro h
    unfold decodeFAW at h
    split at h
    · next al ah dl dh tail =>
      cases h
      exact ⟨joinBytes al ah, joinBytes dl dh, rfl, by simp [bytes16]⟩
    · cases h
  · rintro ⟨a, d, rfl, rfl⟩
    simp [decodeFAW, bytes16]

theorem decodeFAL_eq_command_iff {k : Addr → Word32 → Instr} {l rest : List Byte} {i : Instr} :
    decodeFAL k l = .command i rest ↔
      ∃ a d, i = k a d ∧ l = (bytes16 a ++ bytes32 d) ++ rest := by
  constructor
  · intro h
    unfold decodeFAL at h
    split at h
    · next al ah d0 d1 d2 d3 tail =>
      cases h
      exact ⟨joinBytes al ah, joinHalves (joinBytes d0 d1) (joinBytes d2 d3), rfl,
        by simp [bytes16, bytes32]⟩
    · cases h
  · rintro ⟨a, d, rfl, rfl⟩
    simp [decodeFAL, bytes16, bytes32]

theorem decodeFS_eq_command_iff {α : Type} {ofCode : Byte → Option α} {k : α → Instr}
    {l rest : List Byte} {i : Instr} :
    decodeFS ofCode k l = .command i rest ↔ ∃ s x, ofCode s = some x ∧ i = k x ∧ l = s :: rest := by
  constructor
  · intro h
    cases l with
    | nil => cases h
    | cons s tail =>
      cases hx : ofCode s with
      | none => simp [decodeFS, hx] at h
      | some x =>
        simp only [decodeFS, hx] at h
        cases h
        exact ⟨s, x, hx, rfl, rfl⟩
  · rintro ⟨s, x, hx, rfl, rfl⟩
    simp [decodeFS, hx]

/-- A WRT whose whole text is in the stream is read or refused by its text alone (R106, R109). -/
theorem decodeFANT_of_text (k : Addr → List Byte → Instr) (al ah : Byte) {nl nh : Byte}
    {text : List Byte} (rest : List Byte) (h : text.length = (joinBytes nl nh).toNat) :
    decodeFANT k (al :: ah :: nl :: nh :: (text ++ rest)) =
      if textNonzero text then .command (k (joinBytes al ah) text) rest
      else .refuse .badOperand := by
  simp [decodeFANT, ← h]

/-- A stream for WRT is cut short, or holds its whole text (R110). -/
theorem decodeFANT_cases (k : Addr → List Byte → Instr) (l : List Byte) :
    decodeFANT k l = .refuse .truncatedStream ∨
    ∃ al ah nl nh text rest, l = al :: ah :: nl :: nh :: (text ++ rest) ∧
      text.length = (joinBytes nl nh).toNat := by
  unfold decodeFANT
  split
  · next al ah nl nh tail =>
    by_cases hshort : (tail.take (joinBytes nl nh).toNat).length < (joinBytes nl nh).toNat
    · exact .inl (if_pos hshort)
    · refine .inr ⟨al, ah, nl, nh, tail.take (joinBytes nl nh).toNat,
        tail.drop (joinBytes nl nh).toNat, by rw [List.take_append_drop], ?_⟩
      exact Nat.le_antisymm (List.length_take_le _ _) (Nat.le_of_not_lt hshort)
  · exact .inl rfl

theorem decodeFANT_eq_command_iff {k : Addr → List Byte → Instr} {l rest : List Byte} {i : Instr} :
    decodeFANT k l = .command i rest ↔
      ∃ a t, i = k a t ∧ (textFits t = true ∧ textNonzero t = true) ∧
        l = (bytes16 a ++ bytes16 (BitVec.ofNat 16 t.length) ++ t) ++ rest := by
  constructor
  · intro h
    rcases decodeFANT_cases k l with hl | ⟨al, ah, nl, nh, text, tail, rfl, hlen⟩
    · rw [hl] at h; cases h
    · rw [decodeFANT_of_text k al ah tail hlen] at h
      split at h
      · next hnz =>
        cases h
        refine ⟨joinBytes al ah, text, rfl, ⟨textFits_of_length_eq hlen, hnz⟩, ?_⟩
        simp [lengthWord_of_length_eq hlen, bytes16]
      · cases h
  · rintro ⟨a, t, rfl, ⟨hfit, hnz⟩, rfl⟩
    have hlen : t.length = (joinBytes (lowByte (BitVec.ofNat 16 t.length))
        (highByte (BitVec.ofNat 16 t.length))).toNat := by
      rw [joinBytes_low_high, toNat_lengthWord hfit]
    have hread := decodeFANT_of_text k (lowByte a) (highByte a) rest hlen
    rw [joinBytes_low_high, if_pos hnz] at hread
    simpa [bytes16] using hread

/-! ### Refusals that a longer stream keeps -/

/-- What a decoder refuses for another reason than a short stream, it refuses whatever follows. -/
def KeepsRefusals (f : List Byte → Decoded) : Prop :=
  ∀ (l more : List Byte) (r : DecodeRefusal), f l = .refuse r → r ≠ .truncatedStream →
    f (l ++ more) = .refuse r

/-- A decoder that refuses short streams only has no other refusal to keep. -/
theorem KeepsRefusals.of_truncated_only {f : List Byte → Decoded}
    (h : ∀ l r, f l = .refuse r → r = .truncatedStream) : KeepsRefusals f :=
  fun l _ r hl hr => absurd (h l r hl) hr

theorem decodeFA_keepsRefusals (k : Addr → Instr) : KeepsRefusals (decodeFA k) :=
  .of_truncated_only fun l r h => by
    unfold decodeFA at h
    split at h <;> cases h
    rfl

theorem decodeFAB_keepsRefusals (k : Addr → Byte → Instr) : KeepsRefusals (decodeFAB k) :=
  .of_truncated_only fun l r h => by
    unfold decodeFAB at h
    split at h <;> cases h
    rfl

theorem decodeFAW_keepsRefusals (k : Addr → Word16 → Instr) : KeepsRefusals (decodeFAW k) :=
  .of_truncated_only fun l r h => by
    unfold decodeFAW at h
    split at h <;> cases h
    rfl

theorem decodeFAL_keepsRefusals (k : Addr → Word32 → Instr) : KeepsRefusals (decodeFAL k) :=
  .of_truncated_only fun l r h => by
    unfold decodeFAL at h
    split at h <;> cases h
    rfl

/-- A bad selector is the whole operand: the first byte decides. -/
theorem decodeFS_keepsRefusals {α : Type} (ofCode : Byte → Option α) (k : α → Instr) :
    KeepsRefusals (decodeFS ofCode k) := by
  intro l more r h hr
  cases l with
  | nil => cases h; exact absurd rfl hr
  | cons s tail =>
    cases hx : ofCode s with
    | none => simpa [decodeFS, hx] using h
    | some x => simp [decodeFS, hx] at h

/-- A zero text byte is refused only where the whole text is there: the text decides. -/
theorem decodeFANT_keepsRefusals (k : Addr → List Byte → Instr) : KeepsRefusals (decodeFANT k) := by
  intro l more r h hr
  rcases decodeFANT_cases k l with hl | ⟨al, ah, nl, nh, text, rest, rfl, hlen⟩
  · rw [hl] at h; cases h; exact absurd rfl hr
  · have hlong := decodeFANT_of_text k al ah (rest ++ more) hlen
    rw [decodeFANT_of_text k al ah rest hlen] at h
    split at h
    · cases h
    · next hz => simpa [hz, h] using hlong

/-- The opcode byte picks the format, and every format keeps its refusals. The cases 1 to 17 are the rows
of R105 in order, the last a reserved opcode. -/
theorem decodeOp_keepsRefusals (op : Byte) : KeepsRefusals (decodeOp op) := by
  intro l more r
  unfold decodeOp
  split
  case h_1 | h_9 => exact decodeFAB_keepsRefusals _ l more r
  case h_2 | h_4 | h_8 | h_10 => exact decodeFA_keepsRefusals _ l more r
  case h_3 | h_7 => exact decodeFAW_keepsRefusals _ l more r
  case h_5 => exact decodeFAL_keepsRefusals _ l more r
  case h_6 => exact decodeFANT_keepsRefusals _ l more r
  case h_15 | h_16 => exact decodeFS_keepsRefusals _ _ l more r
  case h_18 => exact fun h _ => h
  all_goals intro h; cases h

theorem decode_append_of_refuse {l : List Byte} {r : DecodeRefusal} (more : List Byte)
    (h : decode l = .refuse r) (hr : r ≠ .truncatedStream) : decode (l ++ more) = .refuse r := by
  cases l with
  | nil => cases h; exact absurd rfl hr
  | cons op rest => exact decodeOp_keepsRefusals op rest more r h hr

/-! ### The decoder on a whole command (R105, R106) -/

theorem decode_encode_append {i : Instr} (rest : List Byte) (h : i.wf = true) :
    decode (encode i ++ rest) = .command i rest := by
  cases i with
  | wrb a d => exact decodeFAB_eq_command_iff.2 ⟨a, d, rfl, rfl⟩
  | vwrb a d => exact decodeFAB_eq_command_iff.2 ⟨a, d, rfl, rfl⟩
  | rdb a => exact decodeFA_eq_command_iff.2 ⟨a, rfl, rfl⟩
  | rdw a => exact decodeFA_eq_command_iff.2 ⟨a, rfl, rfl⟩
  | vxl a => exact decodeFA_eq_command_iff.2 ⟨a, rfl, rfl⟩
  | vrdb a => exact decodeFA_eq_command_iff.2 ⟨a, rfl, rfl⟩
  | wrw a d => exact decodeFAW_eq_command_iff.2 ⟨a, d, rfl, rfl⟩
  | rds a n => exact decodeFAW_eq_command_iff.2 ⟨a, n, rfl, rfl⟩
  | wrl a d => exact decodeFAL_eq_command_iff.2 ⟨a, d, rfl, rfl⟩
  | wrt a t => exact decodeFANT_eq_command_iff.2 ⟨a, t, rfl, by simpa [Instr.wf] using h, rfl⟩
  | sarch x => exact decodeFS_eq_command_iff.2 ⟨x.code, x, x.ofCode_code, rfl, rfl⟩
  | sspd x => exact decodeFS_eq_command_iff.2 ⟨x.code, x, x.ofCode_code, rfl, rfl⟩
  | init | hrst | run | stop | poll => rfl

/-- Each row of R105 reads the operands of its format, and its opcode byte is known by its number. The
cases 1 to 17 are the rows in order, the last a reserved opcode. -/
theorem decodeOp_command {op : Byte} {l rest : List Byte} {i : Instr}
    (h : decodeOp op l = .command i rest) : i.wf = true ∧ op :: l = encode i ++ rest := by
  unfold decodeOp at h
  split at h
  case h_1 hop | h_9 hop =>
    obtain ⟨a, d, rfl, rfl⟩ := decodeFAB_eq_command_iff.1 h
    exact ⟨rfl, congrArg (· :: _) (BitVec.eq_of_toNat_eq hop)⟩
  case h_2 hop | h_4 hop | h_8 hop | h_10 hop =>
    obtain ⟨a, rfl, rfl⟩ := decodeFA_eq_command_iff.1 h
    exact ⟨rfl, congrArg (· :: _) (BitVec.eq_of_toNat_eq hop)⟩
  case h_3 hop | h_7 hop =>
    obtain ⟨a, d, rfl, rfl⟩ := decodeFAW_eq_command_iff.1 h
    exact ⟨rfl, congrArg (· :: _) (BitVec.eq_of_toNat_eq hop)⟩
  case h_5 hop =>
    obtain ⟨a, d, rfl, rfl⟩ := decodeFAL_eq_command_iff.1 h
    exact ⟨rfl, congrArg (· :: _) (BitVec.eq_of_toNat_eq hop)⟩
  case h_6 hop =>
    obtain ⟨a, t, rfl, ⟨hfit, hnz⟩, rfl⟩ := decodeFANT_eq_command_iff.1 h
    exact ⟨by simp [Instr.wf, hfit, hnz], congrArg (· :: _) (BitVec.eq_of_toNat_eq hop)⟩
  case h_15 hop =>
    obtain ⟨s, x, hx, rfl, rfl⟩ := decodeFS_eq_command_iff.1 h
    rw [← Arch.code_of_ofCode hx]
    exact ⟨rfl, congrArg (· :: _) (BitVec.eq_of_toNat_eq hop)⟩
  case h_16 hop =>
    obtain ⟨s, x, hx, rfl, rfl⟩ := decodeFS_eq_command_iff.1 h
    rw [← Speed.code_of_ofCode hx]
    exact ⟨rfl, congrArg (· :: _) (BitVec.eq_of_toNat_eq hop)⟩
  case h_11 hop | h_12 hop | h_13 hop | h_14 hop | h_17 hop =>
    cases h
    exact ⟨rfl, congrArg (· :: _) (BitVec.eq_of_toNat_eq hop)⟩
  case h_18 => cases h

/-- The decoder reads a command exactly where the stream begins with its words. -/
theorem decode_eq_command_iff {l rest : List Byte} {i : Instr} :
    decode l = .command i rest ↔ i.wf = true ∧ l = encode i ++ rest := by
  constructor
  · intro h
    cases l with
    | nil => cases h
    | cons op tail => exact decodeOp_command h
  · rintro ⟨hwf, rfl⟩
    exact decode_encode_append rest hwf

theorem decode_encode {i : Instr} (h : i.wf = true) : decode (encode i) = .command i [] := by
  simpa using decode_encode_append [] h

/-- A stream that spells a command spells it whatever follows. -/
theorem decode_append_of_command {l rest : List Byte} {i : Instr} (more : List Byte)
    (h : decode l = .command i rest) : decode (l ++ more) = .command i (rest ++ more) := by
  obtain ⟨hwf, rfl⟩ := decode_eq_command_iff.1 h
  rw [List.append_assoc]
  exact decode_encode_append _ hwf

theorem decodeOp_reserved {op : Byte} (rest : List Byte)
    (h : op.toNat ≤ 0x0F ∨ (0x12 ≤ op.toNat ∧ op.toNat ≤ 0x1F) ∨
      (0x25 ≤ op.toNat ∧ op.toNat ≤ 0x2F) ∨ (0x33 ≤ op.toNat ∧ op.toNat ≤ 0x3F) ∨
      (0x46 ≤ op.toNat ∧ op.toNat ≤ 0x4F) ∨ 0x51 ≤ op.toNat) :
    decodeOp op rest = .refuse .illegalCommand := by
  unfold decodeOp
  split
  case h_18 => rfl
  all_goals omega

end Sys2Proof

namespace Sys2Proof.Machine

open Sys2Proof.Safety

/-! ### The bits of a field (30_encoding R121) -/

theorem serialBits_lsbFirst (n v : Nat) :
    serialBits .lsbFirst n v = (List.range n).map v.testBit := by
  induction n with
  | zero => rfl
  | succ n ih => simpa [serialBits, msbBits, List.range_succ] using ih

theorem serialBits_msbFirst (n v : Nat) :
    serialBits .msbFirst n v = (List.range n).map fun i => v.testBit (n - 1 - i) := by
  induction n with
  | zero => rfl
  | succ n ih =>
    have shift : (fun i => v.testBit (n - 1 - i)) = fun i => v.testBit (n - (i + 1)) := by
      funext i
      rw [Nat.sub_sub, Nat.add_comm]
    rw [List.range_succ_eq_map, List.map_cons, List.map_map]
    exact congrArg (v.testBit n :: ·) (ih.trans (by rw [shift]; rfl))

/-- A field of a bit vector, most significant bit first. -/
theorem serialBits_msbFirst_toNat {n : Nat} (x : BitVec n) :
    serialBits .msbFirst n x.toNat = (List.range n).map fun i => x.getLsbD (n - 1 - i) :=
  serialBits_msbFirst n x.toNat

/-- A field of a bit vector, least significant bit first. -/
theorem serialBits_lsbFirst_toNat {n : Nat} (x : BitVec n) :
    serialBits .lsbFirst n x.toNat = (List.range n).map fun i => x.getLsbD i :=
  serialBits_lsbFirst n x.toNat

theorem assembleBits_serialBits_byte (o : FrameOrder) (d : Byte) :
    assembleBits o (serialBits o 8 d.toNat) = d.toNat := by
  rw [assembleBits_serialBits, Nat.mod_eq_of_lt d.isLt]

/-! ### What the host finds in its stream, and the step it takes there -/

theorem State.fetch_of_command {s : State} {i : Instr} {rest : List Byte}
    (h : decode s.stream = .command i rest) :
    s.fetch = .command i ((s.setStream rest).latchOperands i) := by
  unfold State.fetch
  split
  · next hs => rw [hs] at h; cases h
  · next hs => rw [← hs, h]

theorem State.fetch_of_refuse {s : State} {r : DecodeRefusal} (hs : s.stream ≠ [])
    (h : decode s.stream = .refuse r) : s.fetch = .refuse r := by
  unfold State.fetch
  split
  · next hnil => exact absurd hnil hs
  · next hcons => rw [← hcons, h]

/-- An enabled host that is not denied runs the command it finds (60_exceptions R350). -/
theorem step_of_command {s t : State} {i : Instr} (hfree : HostFree s) (hd : ¬ HostDenied s)
    (h : s.fetch = .command i t) : step s = exec i t := by
  obtain ⟨hfault, hrefused, hidle⟩ := hfree
  simp [step, stepHost, hfault, hrefused, hidle, hd, h]

/-- An enabled host that is not denied sets the mark where the decoder refuses (30_encoding R118). -/
theorem step_of_refuse {s : State} {r : DecodeRefusal} (hfree : HostFree s) (hd : ¬ HostDenied s)
    (h : s.fetch = .refuse r) : step s = .next (s.markRefused r) := by
  obtain ⟨hfault, hrefused, hidle⟩ := hfree
  simp [step, stepHost, hfault, hrefused, hidle, hd, h]

/-- An enabled host that is denied leaves the step to the others (60_exceptions R351). -/
theorem step_of_denied {s : State} (hfree : HostFree s) (hd : HostDenied s) :
    step s = .next s.others := by
  obtain ⟨hfault, hrefused, -⟩ := hfree
  simp [step, hfault, hrefused, hd]

/-- With the mark set a step is the other agents' moves (30_encoding R118). -/
theorem step_of_refused {s t : State} {m : RefusedMark} (hm : s.refused = some m)
    (h : step s = .next t) : t = s.others := by
  rcases step_cases h with ⟨-, ht⟩ | ⟨⟨-, hnone, -⟩, -⟩
  · exact ht
  · rw [hm] at hnone; cases hnone

end Sys2Proof.Machine

namespace Sys2Proof.Safety

open Sys2Proof.Machine

/-! ### WRB and RDB where their cycle can run (41_bus_link R150, R152) -/

/-- The INITIALISED check is passed, and the host is still served and the link still free after it. -/
theorem CanCycle.requireInit {s : State} (h : CanCycle s) :
    s.requireInit = .ok () s.others ∧ s.others.hostShare = none ∧ s.others.linkCheck = none := by
  obtain ⟨hserved, hinit, hlink, hbus⟩ := h
  exact ⟨State.requireInit_ok hserved hinit, (State.others_hostShare s).trans hserved,
    (State.others_linkCheck s).trans (State.linkCheck_none hlink hbus)⟩

theorem CanCycle.waits_mem {s : State} (k : Nat) (h : CanCycle s) :
    (State.waits k s).mem = s.mem := by
  obtain ⟨-, -, -, hbus⟩ := h
  exact State.waits_mem_of_busFree k hbus

theorem CanCycle.exec_wrb {s : State} (a : Addr) (v : Byte) (h : CanCycle s) :
    exec (.wrb a v) s = .next ((State.waits 2 s).writeEffect a v).complete := by
  obtain ⟨hinit, hserved, hlink⟩ := h.requireInit
  change (s.requireInit.bind fun _ s => s.writeCycle a v).finish = _
  rw [hinit, Result.bind_ok, State.writeCycle_ok a v hserved hlink]
  rfl

theorem CanCycle.exec_rdb {s : State} (a : Addr) (h : CanCycle s) :
    exec (.rdb a) s =
      .next (((State.waits 2 s).readEffect a).setQ (zext16 (s.captured a))).complete := by
  obtain ⟨hinit, hserved, hlink⟩ := h.requireInit
  have hcap : (State.waits 2 s).captured a = s.captured a :=
    State.captured_congr a (State.waits_cfg 2 s) (h.waits_mem 2) (State.waits_byteDraws 2 s)
  rw [← hcap]
  change (s.requireInit.bind fun _ s => (s.readCycle a).bind fun b s =>
    .ok () (s.setQ (zext16 b))).finish = _
  rw [hinit, Result.bind_ok, State.readCycle_ok a hserved hlink]
  rfl

/-- Mem after WRB, from Mem before it: the bus is free, so no other agent writes. -/
theorem CanCycle.memAt_wrb {s : State} (a b : Addr) (v : Byte) (h : CanCycle s) :
    ((State.waits 2 s).writeEffect a v).complete.memAt b =
      if a = b ∧ inRam s.cfg a = true then v else s.memAt b := by
  have hmem : (State.waits 2 s).memAt b = s.memAt b := by
    simp [State.memAt, h.waits_mem]
  calc ((State.waits 2 s).writeEffect a v).complete.memAt b
      = ((State.waits 2 s).writeEffect a v).memAt b := rfl
    _ = if a = b ∧ inRam s.cfg a = true then v else s.memAt b := by
      rw [State.memAt_writeEffect, hmem, State.waits_cfg]

/-- RAM_SET, Mem and the draws are what a read captures, and FRAME_ORDER is none of them. -/
theorem captured_frameOrder (s : State) (o : FrameOrder) (a : Addr) :
    State.captured { s with cfg := { s.cfg with frameOrder := o } } a = s.captured a := rfl

/-! ### The statements -/

/-- Settles O2: each format's decoder reads the operand bytes its encoder writes. -/
theorem decodeGivesBackEncodedCommand : Obligations.DecodeGivesBackEncodedCommand :=
  fun _ rest h => decode_encode_append rest h

/-- Settles O3: the opcode byte gives the format, and what the format's decoder took is what its encoder
writes. -/
theorem decodedStreamBeginsWithItsWords : Obligations.DecodedStreamBeginsWithItsWords :=
  fun _ _ _ h => decode_eq_command_iff.1 h

/-- Settles O4: the six ranges leave out every number of the opcode map. -/
theorem reservedOpcodeIsIllegalCommand : Obligations.ReservedOpcodeIsIllegalCommand :=
  fun _ rest h => decodeOp_reserved rest h

/-- Settles O5: no selector over 1 names a value, and a text with a zero byte is not a text of WRT. -/
theorem badOperandBytesAreRefused : Obligations.BadOperandBytesAreRefused := by
  refine ⟨fun sel rest hsel => ⟨?arch, ?speed⟩, fun al ah nl nh text rest hlen hzero => ?text⟩
  case arch =>
    change decodeFS Arch.ofCode .sarch (sel :: rest) = _
    simp [decodeFS, Arch.ofCode_of_one_lt hsel]
  case speed =>
    change decodeFS Speed.ofCode .sspd (sel :: rest) = _
    simp [decodeFS, Speed.ofCode_of_one_lt hsel]
  case text =>
    rw [← toNat_joinBytes] at hlen
    change decodeFANT .wrt (al :: ah :: nl :: nh :: (text ++ rest)) = _
    simp [decodeFANT_of_text .wrt al ah rest hlen, textNonzero_of_zero_mem hzero]

/-- Settles O6: a part that spelled a command, or was refused for another reason, would do so with the
missing bytes too; but the whole spells the given command and leaves nothing. -/
theorem shortStreamIsTruncated : Obligations.ShortStreamIsTruncated := by
  intro i front missing hwf hsplit _ hmissing
  have hwhole : decode (front ++ missing) = .command i [] := hsplit ▸ decode_encode hwf
  cases hfront : decode front with
  | command j rest =>
    rw [decode_append_of_command missing hfront] at hwhole
    injection hwhole with _ hrest
    exact absurd (List.append_eq_nil_iff.1 hrest).2 hmissing
  | refuse r =>
    by_cases hr : r = .truncatedStream
    · rw [hr]
    · rw [decode_append_of_refuse missing hfront hr] at hwhole
      cases hwhole

/-- Settles O9: the refusal is the step's own update, and past it only the other agents move, none of
whom writes the mark or CPOS. -/
theorem refusalMarkIsSetAndKept : Obligations.RefusalMarkIsSetAndKept := by
  refine ⟨fun s r hfree hd hs hdec => ?set, fun s t m hm hstep => ?kept⟩
  case set => exact step_of_refuse hfree hd (State.fetch_of_refuse hs hdec)
  case kept =>
    obtain rfl := step_of_refused hm hstep
    exact ⟨rfl, by simpa using hm, by simp⟩

/-- Settles O25: a write cycle stores its operand, and a read cycle returns the captured byte, and
neither Mem, RAM_SET nor the draws know of FRAME_ORDER. -/
theorem frameOrderIsInvisibleToCommands : Obligations.FrameOrderIsInvisibleToCommands := by
  intro s o a v h
  have h' : CanCycle { s with cfg := { s.cfg with frameOrder := o } } := h
  refine ⟨⟨_, _, h.exec_wrb a v, h'.exec_wrb a v, fun b => ?stored⟩,
    ⟨_, _, h.exec_rdb a, h'.exec_rdb a, ?returned⟩⟩
  case stored =>
    rw [h.memAt_wrb, h'.memAt_wrb]
    rfl
  case returned =>
    simp [captured_frameOrder]

/-- Settles O26: a frame is its fields' bits in order, and the bits read back are those of the byte. -/
theorem frameBitsInBothOrders : Obligations.FrameBitsInBothOrders := by
  intro a d
  have amsb := serialBits_msbFirst_toNat a
  have alsb := serialBits_lsbFirst_toNat a
  have dmsb := serialBits_msbFirst_toNat d
  have dlsb := serialBits_lsbFirst_toNat d
  exact ⟨congrArg₂ (· ++ ·) amsb dmsb, congrArg₂ (· ++ ·) alsb dlsb, amsb, alsb,
    dmsb ▸ assembleBits_serialBits_byte .msbFirst d, dlsb ▸ assembleBits_serialBits_byte .lsbFirst d⟩

/-- Settles O1: each string is the words of its command. -/
theorem decodeReadsSpecWords : Obligations.DecodeReadsSpecWords := by
  refine ⟨?wrb, ?wrw, ?wrl, ?wrt, ?vrdb, ?sarch, ?poll⟩
  all_goals exact decode_eq_command_iff.2 ⟨rfl, rfl⟩

/-- Settles O7: an enabled host fetches the command and runs it; a denied one leaves the step to the
others, who give no share. -/
theorem stepRunsDecodedCommand : Obligations.StepRunsDecodedCommand := by
  intro s i rest hfree hdec
  exact ⟨fun hd => step_of_command hfree hd (State.fetch_of_command hdec),
    fun hd => ⟨step_of_denied hfree hd, (State.others_hostShare s).trans hd⟩⟩

end Sys2Proof.Safety
end

section
/-! The bus link family (41_bus_link): how far a command of the link has come after `k` boundaries, what it
has left alone there, and the three ways it can end. -/

namespace Sys2Proof.Machine

open Sys2Proof.Safety

/-! ### No other agent looks at the host's share -/

theorem State.maskedEdge_setHostShare (share : Option Nat) (s : State) :
    (s.setHostShare share).maskedEdge = s.maskedEdge.setHostShare share := by
  unfold State.maskedEdge
  rw [State.setHostShare_cfg, State.setHostShare_edgeDraws]
  split
  · rfl
  · rfl
  · split <;> rfl

theorem State.dbellEdge_setHostShare (v : Bool) (share : Option Nat) (s : State) :
    (s.setHostShare share).dbellEdge v = (s.dbellEdge v).setHostShare share := by
  unfold State.dbellEdge
  have hedge : ((s.setHostShare share).setDbell v).emit (.dbEdge v) =
      ((s.setDbell v).emit (.dbEdge v)).setHostShare share := rfl
  simp only [hedge, State.setHostShare_doorbellIe, State.setHostShare_ie,
    State.maskedEdge_setHostShare]
  split
  · split <;> rfl
  · rfl

theorem State.move_setHostShare (share : Option Nat) (m : Move) (s : State) :
    (s.setHostShare share).move m = (s.move m).setHostShare share := by
  have henabled : (s.setHostShare share).enabled m = s.enabled m := by cases m <;> rfl
  have hperform : (s.setHostShare share).perform m = (s.perform m).setHostShare share := by
    cases m with
    | cardDbell v => exact s.dbellEdge_setHostShare v share
    | _ => rfl
  unfold State.move
  rw [henabled, hperform]
  split <;> rfl

theorem State.moves_setHostShare (share : Option Nat) (ms : List Move) (s : State) :
    State.moves ms (s.setHostShare share) = (State.moves ms s).setHostShare share := by
  induction ms generalizing s with
  | nil => rfl
  | cons m ms ih => rw [State.moves, State.move_setHostShare, ih, State.moves]

theorem State.others_setHostShare (share : Option Nat) (s : State) :
    (s.setHostShare share).others = s.others.setHostShare share := by
  unfold State.others
  rw [State.setHostShare_schedule, State.setHostShare_endless]
  split
  · next batch rest _ => exact State.moves_setHostShare share batch (s.setSchedule rest)
  · exact State.moves_setHostShare share (Config.freeMoves s.moveDraws) s.useMoveDraw
  · rfl

/-- Counting a micro-step off the share changes nothing else, and gives a served host no share. -/
theorem State.spend_eq_setHostShare (s : State) :
    ∃ share, s.spend = s.setHostShare share ∧ (HostServed s → share = none) := by
  unfold State.spend
  split
  · next h => exact ⟨_, rfl, fun hs => by rw [HostServed, h] at hs; cases hs⟩
  · exact ⟨s.hostShare, rfl, id⟩
  · exact ⟨s.hostShare, rfl, id⟩

/-! ### One byte of memory at a boundary -/

/-- Two states in which the other agents do the same, and which hold the same byte at `b`. -/
def AgreeAt (b : Addr) (s t : State) : Prop := AgreeAsync s t ∧ t.memAt b = s.memAt b

/-- A move stores in both what it stores in one. -/
theorem AgreeAt.move {b : Addr} {s t : State} (m : Move) (h : AgreeAt b s t) :
    AgreeAt b (s.move m) (t.move m) := by
  obtain ⟨ha, hb⟩ := h
  refine ⟨ha.move m, ?_⟩
  obtain ⟨⟨-, hreq, hdbell, -, hpend, -⟩, hport, -, htick, hie, -, hbusen, hack, -⟩ := ha
  have he : t.enabled m = s.enabled m := by
    cases m <;> simp [State.enabled, State.expansionOwnsBus, State.guestMayAccess, State.acked, *]
  unfold State.move
  rw [he]
  split
  · cases m with
    | cardWrite a v => simp only [State.perform, State.memAt_cardStore, hb]
    | guestWrite a v => simp only [State.perform, State.memAt_guestStore, hb]
    | _ =>
      simpa [State.perform, State.tickHandler, State.changeReq, State.memAt] using hb
  · exact hb

theorem AgreeAt.others {b : Addr} {s t : State} (h : AgreeAt b s t) :
    AgreeAt b s.others t.others := by
  have hmoves : ∀ (ms : List Move) (s t : State), AgreeAt b s t →
      AgreeAt b (State.moves ms s) (State.moves ms t) := by
    intro ms
    induction ms with
    | nil => exact fun _ _ h => h
    | cons m ms ih => exact fun s t h => ih _ _ (h.move m)
  refine ⟨h.1.others, ?_⟩
  obtain ⟨⟨⟨hs, hasync⟩, hrest⟩, hb⟩ := h
  have ⟨_, _, _, _, _, _, hd⟩ := hasync
  have ⟨_, _, _, _, _, _, _, he⟩ := hrest
  unfold State.others
  rw [hs, he, hd]
  split
  · next batch rest _ =>
    refine (hmoves batch (s.setSchedule rest) (t.setSchedule rest) ⟨?_, hb⟩).2
    simpa [AgreeAsync, SameAsync] using And.intro hasync hrest
  · refine (hmoves (Config.freeMoves s.moveDraws) s.useMoveDraw t.useMoveDraw ⟨?_, hb⟩).2
    simpa [AgreeAsync, SameAsync] using And.intro (And.intro hs hasync) hrest
  · exact hb

end Sys2Proof.Machine

namespace Sys2Proof.Safety

open Sys2Proof.Machine

/-! ### What a command of the link keeps, step by step -/

theorem KeepsRest.agreeAsync {k : Nat} {s u : State} (h : KeepsRest k s u) :
    AgreeAsync (State.waits k s) u := by
  obtain ⟨⟨hcfg, -, -, -, -, -, -, hend, -⟩, ⟨-, -, hie, hdbie, -⟩, -, ⟨-, htick⟩,
    ⟨-, -, -, hbusen, hack⟩, -, hasync⟩ := h
  refine ⟨hasync, ?_⟩
  simp [hcfg, hend, hie, hdbie, htick, hbusen, hack]

theorem KeepsRest.cfg {k : Nat} {s u : State} (h : KeepsRest k s u) : u.cfg = s.cfg := by
  obtain ⟨⟨hcfg, -⟩, -⟩ := h
  exact hcfg

/-- A denied host was not served when the command started. -/
theorem KeepsRest.not_served {k : Nat} {s u : State} (h : KeepsRest k s u) (hd : HostDenied u) :
    ¬ HostServed s := by
  obtain ⟨⟨-, -, -, -, -, -, -, -, hserved⟩, -⟩ := h
  intro hs
  have hnone := hserved hs
  rw [HostServed, hd] at hnone
  cases hnone

theorem KeepsRest.refl (s : State) : KeepsRest 0 s s := by
  simp [KeepsRest, KeepsOperands, KeepsModes, KeepsArbiter, KeepsRun, KeepsLines, KeepsSettings,
    SameAsync, State.waits]

theorem KeepsRest.others {k : Nat} {s u : State} (h : KeepsRest k s u) :
    KeepsRest (k + 1) s u.others := by
  have hasync := h.agreeAsync.others.1
  rw [State.others_waits] at hasync
  obtain ⟨hoperands, hmodes, harbiter, hrun, hlines, hsettings, -⟩ := h
  refine ⟨?_, ?_, ?_, ?_, ?_, ?_, hasync⟩
  · simpa [KeepsOperands, HostServed] using hoperands
  · simpa [KeepsModes] using hmodes
  · simpa [KeepsArbiter] using harbiter
  · simpa [KeepsRun] using hrun
  · simpa [KeepsLines] using hlines
  · simpa [KeepsSettings] using hsettings

theorem KeepsRest.setHostShare {k : Nat} {s u : State} {share : Option Nat} (h : KeepsRest k s u)
    (hshare : HostServed u → share = none) : KeepsRest k s (u.setHostShare share) := by
  obtain ⟨⟨hcfg, hA, hD, hN, hS, hT, hstream, hend, hserved⟩, hrest⟩ := h
  exact ⟨⟨hcfg, hA, hD, hN, hS, hT, hstream, hend, fun hs => hshare (hserved hs)⟩, hrest⟩

theorem KeepsRest.raise {k : Nat} {s u : State} (c : FaultCode) (h : KeepsRest k s u) :
    KeepsRest k s (u.raise c) := by
  simpa [KeepsRest, KeepsOperands, KeepsModes, KeepsArbiter, KeepsRun, KeepsLines, KeepsSettings,
    SameAsync, HostServed] using h

/-- A cycle runs only with LINK_BUSY = 0, and leaves it so. -/
theorem KeepsRest.writeEffect {k : Nat} {s u : State} (a : Addr) (v : Byte) (h : KeepsRest k s u)
    (hcheck : u.linkCheck = none) : KeepsRest k s (u.writeEffect a v) := by
  have hbusy := ((State.linkCheck_eq_none_iff u).1 hcheck).1
  simpa [KeepsRest, KeepsOperands, KeepsModes, KeepsArbiter, KeepsRun, KeepsLines, KeepsSettings,
    SameAsync, HostServed, hbusy] using h

theorem KeepsRest.readEffect {k : Nat} {s u : State} (a : Addr) (h : KeepsRest k s u)
    (hcheck : u.linkCheck = none) : KeepsRest k s (u.readEffect a) := by
  have hbusy := ((State.linkCheck_eq_none_iff u).1 hcheck).1
  simpa [KeepsRest, KeepsOperands, KeepsModes, KeepsArbiter, KeepsRun, KeepsLines, KeepsSettings,
    SameAsync, HostServed, hbusy] using h

/-! ### A point inside a command -/

/-- In the `k` boundaries since `s` the host has changed nothing but its share. -/
def Pristine (k : Nat) (s u : State) : Prop :=
  ∃ share, u = (State.waits k s).setHostShare share ∧ (HostServed s → share = none)

theorem Pristine.others {k : Nat} {s u : State} (h : Pristine k s u) :
    Pristine (k + 1) s u.others := by
  obtain ⟨share, rfl, hnone⟩ := h
  exact ⟨share, by rw [State.others_setHostShare, State.others_waits], hnone⟩

theorem Pristine.spend {k : Nat} {s u : State} (h : Pristine k s u) : Pristine k s u.spend := by
  obtain ⟨share, rfl, hnone⟩ := h
  obtain ⟨share', hspend, hnone'⟩ := ((State.waits k s).setHostShare share).spend_eq_setHostShare
  exact ⟨share', hspend, fun hs => hnone' (hnone hs)⟩

theorem Pristine.raise {k : Nat} {s u : State} (c : FaultCode) (h : Pristine k s u) :
    FaultedAt k s (u.raise c) := by
  obtain ⟨share, rfl, hnone⟩ := h
  exact ⟨c, share, rfl, hnone⟩

theorem Pristine.cfg {k : Nat} {s u : State} (h : Pristine k s u) : u.cfg = s.cfg := by
  obtain ⟨share, rfl, -⟩ := h
  simp

/-- What holds when a command starts, and neither the other agents nor the host's share nor a raise
undoes. -/
structure HostKept (P : State → Prop) (s : State) : Prop where
  start : P s
  others : ∀ u, P u → P u.others
  share : ∀ v u, P u → P (u.setHostShare v)
  raise : ∀ c u, P u → P (u.raise c)

/-- What a command of the link that stores at `addrs` leaves alone over `k` boundaries. -/
structure Frame (P : State → Prop) (addrs : List Addr) (k : Nat) (s t : State) : Prop where
  rest : KeepsRest k s t
  bytes : ∀ b, (b ∉ addrs ∨ inRam s.cfg b = false) → t.memAt b = (State.waits k s).memAt b
  keeps : P t

/-- A point of a command between two of its micro-steps: it has not been counted, nor raised a fault. -/
structure Underway (P : State → Prop) (addrs : List Addr) (k : Nat) (s u : State) : Prop
    extends Frame P addrs k s u where
  cpos : u.cpos = s.cpos
  fault : u.fault = s.fault

/-- The next cycle runs, or the host has changed nothing yet: a raise there is precise. -/
def Precise (k : Nat) (s u : State) : Prop := u.linkCheck = none ∨ Pristine k s u

theorem Precise.next {k : Nat} {s u : State} (h : Precise k s u) :
    Precise (k + 1) s u.others.spend :=
  h.imp (by simp) fun hp => hp.others.spend

section

variable {P : State → Prop} {addrs : List Addr} {k : Nat} {s u : State}

theorem Frame.others (hP : HostKept P s) (h : Frame P addrs k s u) :
    Frame P addrs (k + 1) s u.others where
  rest := h.rest.others
  bytes b hb := by
    have hagree : AgreeAt b (State.waits k s) u := ⟨h.rest.agreeAsync, h.bytes b hb⟩
    rw [← State.others_waits]
    exact hagree.others.2
  keeps := hP.others u h.keeps

theorem Frame.setHostShare {share : Option Nat} (hP : HostKept P s) (h : Frame P addrs k s u)
    (hshare : HostServed u → share = none) : Frame P addrs k s (u.setHostShare share) where
  rest := h.rest.setHostShare hshare
  bytes := h.bytes
  keeps := hP.share share u h.keeps

theorem Frame.raise (c : FaultCode) (hP : HostKept P s) (h : Frame P addrs k s u) :
    Frame P addrs k s (u.raise c) where
  rest := h.rest.raise c
  bytes b hb := by simpa [State.memAt] using h.bytes b hb
  keeps := hP.raise c u h.keeps

theorem Frame.of_waits (hP : HostKept P s) : Frame P addrs k s (State.waits k s) := by
  induction k with
  | zero => exact ⟨KeepsRest.refl s, fun _ _ => rfl, hP.start⟩
  | succ k ih => exact State.others_waits k s ▸ ih.others hP

theorem Frame.of_pristine (hP : HostKept P s) (h : Pristine k s u) : Frame P addrs k s u := by
  obtain ⟨share, rfl, hnone⟩ := h
  exact (Frame.of_waits hP).setHostShare hP fun hs => hnone (by simpa [HostServed] using hs)

theorem Frame.of_faultedAt (hP : HostKept P s) (h : FaultedAt k s u) : Frame P addrs k s u := by
  obtain ⟨c, share, rfl, hnone⟩ := h
  exact (Frame.of_pristine hP ⟨share, rfl, hnone⟩).raise c hP

theorem Underway.of_pristine (hP : HostKept P s) (h : Pristine k s u) :
    Underway P addrs k s u where
  toFrame := Frame.of_pristine hP h
  cpos := by obtain ⟨share, rfl, -⟩ := h; simp
  fault := by obtain ⟨share, rfl, -⟩ := h; simp

theorem Underway.others (hP : HostKept P s) (h : Underway P addrs k s u) :
    Underway P addrs (k + 1) s u.others where
  toFrame := h.toFrame.others hP
  cpos := by simpa using h.cpos
  fault := by simpa using h.fault

theorem Underway.spend (hP : HostKept P s) (h : Underway P addrs k s u) :
    Underway P addrs k s u.spend where
  toFrame := by
    obtain ⟨share, hspend, hnone⟩ := u.spend_eq_setHostShare
    exact hspend ▸ h.toFrame.setHostShare hP hnone
  cpos := by simpa using h.cpos
  fault := by simpa using h.fault

theorem Underway.writeEffect {a : Addr} {v : Byte} (ha : a ∈ addrs)
    (hkeeps : P (u.writeEffect a v)) (h : Underway P addrs k s u) (hcheck : u.linkCheck = none) :
    Underway P addrs k s (u.writeEffect a v) where
  rest := h.rest.writeEffect a v hcheck
  bytes b hb := by
    have hspared : ¬ (a = b ∧ inRam u.cfg a = true) := by
      rintro ⟨rfl, hram⟩
      rw [h.rest.cfg] at hram
      exact hb.elim (· ha) (by simp [hram])
    rw [State.memAt_writeEffect, if_neg hspared, h.bytes b hb]
  keeps := hkeeps
  cpos := by simpa using h.cpos
  fault := by simpa using h.fault

theorem Underway.readEffect {a : Addr} (hkeeps : P (u.readEffect a))
    (h : Underway P addrs k s u) (hcheck : u.linkCheck = none) :
    Underway P addrs k s (u.readEffect a) where
  rest := h.rest.readEffect a hcheck
  bytes b hb := by simpa [State.memAt] using h.bytes b hb
  keeps := hkeeps
  cpos := by simpa using h.cpos
  fault := by simpa using h.fault

/-- The string result is none of what every command of the link keeps. -/
theorem Underway.setString (buf : List Byte) (terminated : Bool) (h : Underway P addrs k s u)
    (hkeeps : P (u.setString buf terminated)) :
    Underway P addrs k s (u.setString buf terminated) :=
  ⟨⟨h.rest, h.bytes, hkeeps⟩, h.cpos, h.fault⟩

/-- So is the scalar result. -/
theorem Underway.setQ {P' : State → Prop} (v : Word16) (h : Underway P addrs k s u)
    (hkeeps : P' (u.setQ v)) : Underway P' addrs k s (u.setQ v) :=
  ⟨⟨h.rest, h.bytes, hkeeps⟩, h.cpos, h.fault⟩

end

/-! ### When a cycle has run -/

theorem linkCheck_of_writeCycle {a : Addr} {v : Byte} {x : Unit} {u w : State}
    (h : u.writeCycle a v = .ok x w) : w.linkCheck = none := by
  rcases u.writeCycle_cases a v with ⟨-, hr⟩ | ⟨c, -, hr⟩ | ⟨hnone, hr⟩ <;> rw [hr] at h <;> cases h
  exact State.writeEffect_linkCheck a v (by simpa using hnone)

theorem linkCheck_of_readCycle {a : Addr} {x : Byte} {u w : State}
    (h : u.readCycle a = .ok x w) : w.linkCheck = none := by
  rcases u.readCycle_cases a with ⟨-, hr⟩ | ⟨c, -, hr⟩ | ⟨hnone, hr⟩ <;> rw [hr] at h <;> cases h
  exact State.readEffect_linkCheck a (by simpa using hnone)

/-! ### How a command ends -/

/-- A command's micro-steps so far have kept `P` and left the rest alone; where the host goes no further it
has kept `Q`, and was denied or raised with nothing changed. -/
def Framed {α : Type} (P Q : State → Prop) (addrs : List Addr) (s : State) : Result α → Prop
  | .ok _ u => ∃ k, Underway P addrs k s u
  | .stop t => ∃ k, Frame Q addrs k s t ∧ (CutShort s t ∨ FaultedAt k s t)

section

variable {α β : Type} {P P' Q : State → Prop} {addrs : List Addr} {k : Nat} {s u t : State}

theorem Framed.bind {r : Result α} {f : α → State → Result β} (h : Framed P Q addrs s r)
    (hf : ∀ x k u, r = .ok x u → Underway P addrs k s u → Framed P' Q addrs s (f x u)) :
    Framed P' Q addrs s (r.bind f) := by
  cases r with
  | ok x u => exact hf x _ u rfl h.choose_spec
  | stop t => exact h

theorem Framed.mono {r : Result α} (h : Framed P Q addrs s r) (hP : ∀ u, P u → P' u) :
    Framed P' Q addrs s r := by
  cases r with
  | ok x u =>
    obtain ⟨k, hu⟩ := h
    exact ⟨k, ⟨hu.rest, hu.bytes, hP u hu.keeps⟩, hu.cpos, hu.fault⟩
  | stop t => exact h

/-- A denied host stands where it is. -/
theorem Underway.framed_denied (hQ : HostKept Q s) (h : Underway Q addrs k s u)
    (hdenied : HostDenied u) : Framed P Q addrs s (Result.stop u.others : Result α) := by
  have hnext := h.others hQ
  exact ⟨k + 1, hnext.toFrame, .inl ⟨by simpa [HostDenied] using hdenied, hnext.cpos, hnext.fault⟩⟩

/-- A raise before any effect is precise. -/
theorem Pristine.framed_raise (c : FaultCode) (hQ : HostKept Q s) (h : Pristine k s u) :
    Framed P Q addrs s (Result.stop (u.raise c) : Result α) :=
  ⟨k, Frame.of_faultedAt hQ (h.raise c), .inr (h.raise c)⟩

theorem Precise.framed_raise {c : FaultCode} (hQ : HostKept Q s) (h : Precise k s u)
    (hcheck : u.linkCheck = some c) : Framed P Q addrs s (Result.stop (u.raise c) : Result α) := by
  rcases h with hnone | hpristine
  · rw [hcheck] at hnone; cases hnone
  · exact hpristine.framed_raise c hQ

theorem framed_requireInit {body : State → Result α} (hQ : HostKept Q s)
    (hbody : ∀ u, Pristine 1 s u → Framed P Q addrs s (body u)) :
    Framed P Q addrs s (s.requireInit.bind fun _ u => body u) := by
  have hstart : Pristine 0 s s := ⟨s.hostShare, rfl, id⟩
  have hturn : Pristine 1 s s.others.spend := hstart.others.spend
  rcases s.requireInit_cases with ⟨hdenied, hr⟩ | ⟨-, hr⟩ | ⟨-, hr⟩ <;> rw [hr]
  · exact (Underway.of_pristine hQ hstart).framed_denied hQ hdenied
  · exact hturn.framed_raise .notInitialised hQ
  · exact hbody _ hturn

/-- A video command outside VR raises before any other effect (43_video_demux R217). -/
theorem Pristine.framed_routeVideo {a : Addr} {f : Addr → State → Result α} (hQ : HostKept Q s)
    (h : Pristine k s u) (hf : Framed P Q addrs s (f (xlate u.cfg a) u)) :
    Framed P Q addrs s ((u.routeVideo a).bind f) := by
  unfold State.routeVideo
  split
  · exact hf
  · exact h.framed_raise .badVideoAddr hQ

theorem Underway.framed_writeCycle {a : Addr} {v : Byte} (hP : HostKept P s)
    (hcycle : ∀ u, P u → P (u.writeEffect a v)) (ha : a ∈ addrs) (h : Underway P addrs k s u)
    (hprecise : Precise k s u) : Framed P P addrs s (u.writeCycle a v) := by
  have hnext := (h.others hP).spend hP
  rcases u.writeCycle_cases a v with ⟨hdenied, hr⟩ | ⟨c, hc, hr⟩ | ⟨hnone, hr⟩ <;> rw [hr]
  · exact h.framed_denied hP hdenied
  · exact hprecise.next.framed_raise hP (by simpa using hc)
  · exact ⟨_, hnext.writeEffect ha (hcycle _ hnext.keeps) (by simpa using hnone)⟩

theorem Underway.framed_readCycle (a : Addr) (hP : HostKept P s)
    (hcycle : ∀ a u, P u → P (u.readEffect a)) (h : Underway P addrs k s u)
    (hprecise : Precise k s u) : Framed P P addrs s (u.readCycle a) := by
  have hnext := (h.others hP).spend hP
  rcases u.readCycle_cases a with ⟨hdenied, hr⟩ | ⟨c, hc, hr⟩ | ⟨hnone, hr⟩ <;> rw [hr]
  · exact h.framed_denied hP hdenied
  · exact hprecise.next.framed_raise hP (by simpa using hc)
  · exact ⟨_, hnext.readEffect (hcycle a _ hnext.keeps) (by simpa using hnone)⟩

theorem Underway.framed_writeBytes {writes : List (Addr × Byte)} (hP : HostKept P s)
    (hcycle : ∀ a v u, P u → P (u.writeEffect a v)) (hw : ∀ p ∈ writes, p.1 ∈ addrs)
    (h : Underway P addrs k s u) (hprecise : Precise k s u) :
    Framed P P addrs s (State.writeBytes writes u) := by
  induction writes generalizing k u with
  | nil => exact ⟨k, h⟩
  | cons p rest ih =>
    refine (h.framed_writeCycle hP (hcycle p.1 p.2) (hw p (by simp)) hprecise).bind ?_
    intro _ _ w hcycled hu
    exact ih (fun q hq => hw q (by simp [hq])) hu (.inl (linkCheck_of_writeCycle hcycled))

/-- RDS writes QBUF and QT, which `P` does not speak of, as it reads. -/
theorem Underway.framed_readString {n : Nat} {a : Addr} {got : List Byte} (hP : HostKept P s)
    (hcycle : ∀ a u, P u → P (u.readEffect a)) (hstring : ∀ buf b u, P u → P (u.setString buf b))
    (h : Underway P addrs k s u) (hprecise : Precise k s u) :
    Framed P P addrs s (State.readString n a got u) := by
  induction n generalizing k a got u with
  | zero => exact ⟨k, h.setString _ _ (hstring _ _ _ h.keeps)⟩
  | succ n ih =>
    refine (h.framed_readCycle a hP hcycle hprecise).bind fun b j w hcycled hw => ?_
    have hset buf terminated := hw.setString buf terminated (hstring _ _ _ hw.keeps)
    split
    · exact ⟨j, hset _ _⟩
    · exact ih (hset _ _) (.inl (show w.linkCheck = none from linkCheck_of_readCycle hcycled))

/-- A command of the link ends precisely: it is counted with `P` kept, or stops with `Q` kept. -/
theorem Framed.finish {r : Result Unit} (h : Framed P Q addrs s r) (hr : r.finish = .next t)
    (hcount : ∀ u, P u → P u.complete) :
    ∃ k, EndsPrecisely k s t ∧
      (Frame P addrs k s t ∧ Completed s t ∨
        Frame Q addrs k s t ∧ (CutShort s t ∨ FaultedAt k s t)) := by
  obtain ⟨w, hw, hstop | ⟨u, hok, rfl⟩⟩ := r.finish_next <;> rw [hr] at hw <;> cases hw
  · subst hstop
    obtain ⟨k, hframe, hend⟩ := h
    exact ⟨k, .inr (hend.symm.imp_right fun hcut => ⟨hframe.rest.not_served hcut.1, hcut⟩),
      .inr ⟨hframe, hend⟩⟩
  · subst hok
    obtain ⟨k, hu⟩ := h
    have hdone : Completed s u.complete := ⟨congrArg (· + 1) hu.cpos, hu.fault⟩
    exact ⟨k, .inl hdone, .inl ⟨⟨hu.rest, hu.bytes, hcount u hu.keeps⟩, hdone⟩⟩

end

/-! ### The storing commands -/

/-- What a write cycle and every storing command keep besides the frame. -/
def StoreKeeps (s u : State) : Prop :=
  KeepsResults s u ∧ u.latch = s.latch ∧ u.sdi = s.sdi ∧ u.byteDraws = s.byteDraws

theorem StoreKeeps.hostKept (s : State) : HostKept (StoreKeeps s) s where
  start := ⟨⟨rfl, rfl, rfl⟩, rfl, rfl, rfl⟩
  others u h := by simpa [StoreKeeps, KeepsResults, KeepsString] using h
  share _ _ h := h
  raise c u h := by simpa [StoreKeeps, KeepsResults, KeepsString] using h

theorem StoreKeeps.writeEffect {s u : State} (a : Addr) (v : Byte) (h : StoreKeeps s u) :
    StoreKeeps s (u.writeEffect a v) := by
  simpa [StoreKeeps, KeepsResults, KeepsString] using h

theorem framed_writeBytes_of_pristine {s u : State} {k : Nat} (writes : List (Addr × Byte))
    (h : Pristine k s u) : Framed (StoreKeeps s) (StoreKeeps s) (writes.map Prod.fst) s
      (State.writeBytes writes u) :=
  (Underway.of_pristine (StoreKeeps.hostKept s) h).framed_writeBytes (StoreKeeps.hostKept s)
    (fun a v _ => StoreKeeps.writeEffect a v) (fun _ => List.mem_map_of_mem) (.inr h)

theorem framed_writeCycle_of_pristine {s u : State} {k : Nat} (a : Addr) (v : Byte)
    (h : Pristine k s u) : Framed (StoreKeeps s) (StoreKeeps s) [a] s (u.writeCycle a v) :=
  (Underway.of_pristine (StoreKeeps.hostKept s) h).framed_writeCycle (StoreKeeps.hostKept s)
    (fun _ => StoreKeeps.writeEffect a v) (List.mem_singleton_self a) (.inr h)

/-- A storing command is the INITIALISED check, for VWRB the translation, then write cycles. -/
theorem exec_store_framed {i : Instr} (s : State) (hi : isStore i = true) :
    ∃ r, exec i s = r.finish ∧ Framed (StoreKeeps s) (StoreKeeps s) (storedAddrs s.cfg i) s r := by
  have hkept := StoreKeeps.hostKept s
  cases i with
  | wrb a d =>
    exact ⟨_, rfl, framed_requireInit hkept fun _ hu => framed_writeCycle_of_pristine a d hu⟩
  | wrw a d =>
    exact ⟨_, rfl, framed_requireInit hkept fun _ hu => framed_writeBytes_of_pristine _ hu⟩
  | wrl a d =>
    exact ⟨_, rfl, framed_requireInit hkept fun _ hu => framed_writeBytes_of_pristine _ hu⟩
  | wrt a t =>
    exact ⟨_, rfl, framed_requireInit hkept fun _ hu => framed_writeBytes_of_pristine _ hu⟩
  | vwrb a d =>
    refine ⟨_, rfl, framed_requireInit hkept fun u hu => hu.framed_routeVideo hkept ?_⟩
    rw [hu.cfg]
    exact framed_writeCycle_of_pristine _ d hu
  | _ => cases hi

/-- Settles O34: a storing command can stop only before its first cycle has run, or denied; what it does
between is write cycles at its own addresses. -/
theorem storeCommandsKeepTheRest : Obligations.StoreCommandsKeepTheRest := by
  intro i s t hi hexec
  obtain ⟨r, hr, hframed⟩ := exec_store_framed s hi
  obtain ⟨k, hends, hframe⟩ := hframed.finish (hr ▸ hexec) fun _ h => h
  obtain ⟨hrest, hbytes, hresults, hlatch, hsdi, hdraws⟩ := hframe.elim And.left And.left
  exact ⟨k, hrest, hresults, hlatch, hsdi, hdraws, hends, hbytes⟩

/-! ### The reading commands -/

/-- What the reading command `i` keeps besides the frame, though it completes. -/
def ReadKeeps (i : Instr) (s u : State) : Prop :=
  u.rwn = s.rwn ∧ (∀ a n, i = .rds a n → u.q = s.q) ∧
  ((∀ a n, i ≠ .rds a n) → KeepsString s u) ∧ (∀ a, i = .vxl a → KeepsLink s u)

/-- What `i` keeps until its last micro-step: Q too. -/
def ReadKeepsSoFar (i : Instr) (s u : State) : Prop := ReadKeeps i s u ∧ u.q = s.q

theorem ReadKeepsSoFar.hostKept (i : Instr) (s : State) : HostKept (ReadKeepsSoFar i s) s where
  start := by simp [ReadKeepsSoFar, ReadKeeps, KeepsString, KeepsLink]
  others u h := by simpa [ReadKeepsSoFar, ReadKeeps, KeepsString, KeepsLink] using h
  share _ _ h := h
  raise c u h := by simpa [ReadKeepsSoFar, ReadKeeps, KeepsString, KeepsLink] using h

theorem KeepsResults.hostKept (s : State) : HostKept (KeepsResults s) s where
  start := ⟨rfl, rfl, rfl⟩
  others u h := by simpa [KeepsResults, KeepsString] using h
  share _ _ h := h
  raise c u h := by simpa [KeepsResults, KeepsString] using h

/-- A read cycle moves the link, which every reading command but VXL may. -/
theorem ReadKeepsSoFar.readEffect {i : Instr} {s : State} (hi : ∀ a, i ≠ .vxl a) (a : Addr)
    (u : State) (h : ReadKeepsSoFar i s u) : ReadKeepsSoFar i s (u.readEffect a) := by
  simpa [ReadKeepsSoFar, ReadKeeps, KeepsString, hi] using h

theorem ReadKeepsSoFar.setString {a : Addr} {n : Word16} {s : State} (buf : List Byte)
    (terminated : Bool) (u : State) (h : ReadKeepsSoFar (.rds a n) s u) :
    ReadKeepsSoFar (.rds a n) s (u.setString buf terminated) := by
  simpa [ReadKeepsSoFar, ReadKeeps] using h

/-- The last micro-step of a scalar read writes Q. -/
theorem Underway.framed_setQ {i : Instr} {k : Nat} {s u : State} (hi : ∀ a n, i ≠ .rds a n)
    (v : Word16) (h : Underway (ReadKeepsSoFar i s) [] k s u) :
    Framed (ReadKeeps i s) (ReadKeepsSoFar i s) [] s (.ok () (u.setQ v)) := by
  obtain ⟨hrwn, -, hstring, hlink⟩ := h.keeps.1
  exact ⟨k, h.setQ v ⟨hrwn, fun a n heq => absurd heq (hi a n), hstring, hlink⟩⟩

/-- One read cycle, then Q. -/
theorem framed_readCycle_setQ {i : Instr} {k : Nat} {s u : State} (hvxl : ∀ a, i ≠ .vxl a)
    (hrds : ∀ a n, i ≠ .rds a n) (a : Addr) (g : Byte → Word16)
    (h : Underway (ReadKeepsSoFar i s) [] k s u) (hprecise : Precise k s u) :
    Framed (ReadKeeps i s) (ReadKeepsSoFar i s) [] s
      ((u.readCycle a).bind fun b w => .ok () (w.setQ (g b))) :=
  (h.framed_readCycle a (ReadKeepsSoFar.hostKept i s) (ReadKeepsSoFar.readEffect hvxl)
    hprecise).bind fun _ _ _ _ hw => hw.framed_setQ hrds _

/-- RDS clears QBUF and QT only where its first cycle runs. -/
theorem framed_rds {k : Nat} {s u : State} (a : Addr) (n : Word16) (h : Pristine k s u) :
    Framed (ReadKeepsSoFar (.rds a n) s) (ReadKeepsSoFar (.rds a n) s) [] s
      (State.readString n.toNat a [] u.startString) := by
  have hkept := ReadKeepsSoFar.hostKept (.rds a n) s
  have hu : Underway (ReadKeepsSoFar (.rds a n) s) [] k s u := Underway.of_pristine hkept h
  have hloop : ∀ w, Underway (ReadKeepsSoFar (.rds a n) s) [] k s w → Precise k s w →
      Framed (ReadKeepsSoFar (.rds a n) s) (ReadKeepsSoFar (.rds a n) s) [] s
        (State.readString n.toNat a [] w) := fun w hw hprecise =>
    hw.framed_readString hkept (ReadKeepsSoFar.readEffect (by simp)) ReadKeepsSoFar.setString hprecise
  cases hcheck : u.linkCheck with
  | none =>
    rw [State.startString_ok hcheck]
    exact hloop _ (hu.setString [] false (ReadKeepsSoFar.setString [] false u hu.keeps))
      (.inl (show u.linkCheck = none from hcheck))
  | some c =>
    rw [State.startString_stop hcheck]
    exact hloop u hu (.inr h)

/-- A reading command is the INITIALISED check, then its read cycles and its results. -/
theorem exec_read_framed {i : Instr} (s : State) (hi : isRead i = true) :
    ∃ r, exec i s = r.finish ∧ Framed (ReadKeeps i s) (ReadKeepsSoFar i s) [] s r := by
  have hkept := ReadKeepsSoFar.hostKept i s
  cases i with
  | rdb a =>
    refine ⟨_, rfl, framed_requireInit hkept fun u hu => ?_⟩
    exact framed_readCycle_setQ (by simp) (by simp) a _ (Underway.of_pristine hkept hu) (.inr hu)
  | rdw a =>
    refine ⟨_, rfl, framed_requireInit hkept fun u hu => ?_⟩
    refine ((Underway.of_pristine hkept hu).framed_readCycle a hkept
      (ReadKeepsSoFar.readEffect (by simp)) (.inr hu)).bind fun lo k w hcycled hw => ?_
    exact framed_readCycle_setQ (by simp) (by simp) (a + 1#16) _ hw
      (.inl (linkCheck_of_readCycle hcycled))
  | rds a n =>
    exact ⟨_, rfl, framed_requireInit hkept fun u hu => (framed_rds a n hu).mono fun _ h => h.1⟩
  | vxl a =>
    refine ⟨_, rfl, framed_requireInit hkept fun u hu => hu.framed_routeVideo hkept ?_⟩
    exact (Underway.of_pristine hkept hu).framed_setQ (by simp) _
  | vrdb a =>
    refine ⟨_, rfl, framed_requireInit hkept fun u hu => hu.framed_routeVideo hkept ?_⟩
    exact framed_readCycle_setQ (by simp) (by simp) _ _ (Underway.of_pristine hkept hu) (.inr hu)
  | _ => cases hi

/-- Settles O35: a reading command stores nowhere, and writes its results only as it completes, but for
the bytes of an RDS. -/
theorem readCommandsKeepTheRest : Obligations.ReadCommandsKeepTheRest := by
  intro i s t hi hexec
  obtain ⟨r, hr, hframed⟩ := exec_read_framed s hi
  obtain ⟨k, hends, hframe⟩ := hframed.finish (hr ▸ hexec) fun _ h => h
  have hframeDone : Frame (ReadKeeps i s) [] k s t :=
    hframe.elim And.left fun h => ⟨h.1.rest, h.1.bytes, h.1.keeps.1⟩
  have hresults : Completed s t ∨ KeepsResults s t ∨ ((∃ a n, i = .rds a n) ∧ CutShort s t) := by
    rcases hframe with ⟨-, hdone⟩ | ⟨hstop, hcut | hfault⟩
    · exact .inl hdone
    · obtain ⟨⟨-, -, hstring, -⟩, hq⟩ := hstop.keeps
      by_cases hrds : ∃ a n, i = .rds a n
      · exact .inr (.inr ⟨hrds, hcut⟩)
      · exact .inr (.inl ⟨hq, hstring fun a n heq => hrds ⟨a, n, heq⟩⟩)
    · exact .inr (.inl (Frame.of_faultedAt (addrs := []) (KeepsResults.hostKept s) hfault).keeps)
  obtain ⟨hrest, hbytes, hrwn, hq, hstring, hlink⟩ := hframeDone
  exact ⟨k, hrest, hrwn, hends, hresults, hq, hstring, hlink, fun b => hbytes b (.inl (by simp))⟩

/-! ### A cycle on a busy link or bus, the host served (41_bus_link R140) -/

/-- What `linkCheck` says before a command it says at the command's first cycle too. -/
theorem exec_of_linkCheck {i : Instr} {s : State} {c : FaultCode} (hserved : HostServed s)
    (hi : makesCycle s.cfg i = true) (hinit : s.initialised = true) (hcheck : s.linkCheck = some c) :
    exec i s = .next ((State.waits 2 s).raise c) := by
  have hs : s.others.hostShare = none := (State.others_hostShare s).trans hserved
  have hc : s.others.linkCheck = some c := (State.others_linkCheck s).trans hcheck
  have command : ∀ body : State → Result Unit, body s.others = .stop (s.others.others.raise c) →
      (s.requireInit.bind fun _ u => body u).finish = .next ((State.waits 2 s).raise c) := by
    intro body hbody
    rw [State.requireInit_ok hserved hinit, Result.bind_ok, hbody]
    rfl
  have write : ∀ a v, s.others.writeCycle a v = .stop (s.others.others.raise c) :=
    fun a v => State.writeCycle_stop a v hs hc
  have writes : ∀ p rest, State.writeBytes (p :: rest) s.others = .stop (s.others.others.raise c) :=
    fun p rest => State.writeBytes_cons_stop p.1 p.2 rest hs hc
  have read : ∀ {α : Type} a (f : Byte → State → Result α),
      (s.others.readCycle a).bind f = .stop (s.others.others.raise c) :=
    fun a f => by rw [State.readCycle_stop a hs hc, Result.bind_stop]
  have route : ∀ {α : Type} a (f : Addr → State → Result α), inVideoRegion s.cfg a = true →
      (s.others.routeVideo a).bind f = f (xlate s.cfg a) s.others :=
    fun a f hvr => by simp [State.routeVideo, hvr]
  cases i with
  | wrb a d => exact command _ (write a d)
  | rdb a => exact command _ (read a _)
  | wrw a d => exact command _ (writes _ _)
  | rdw a => exact command _ (read a _)
  | wrl a d => exact command _ (writes _ _)
  | wrt a t => cases t <;> exact command _ (writes _ _)
  | rds a n =>
    refine command (fun u => State.readString n.toNat a [] u.startString) ?_
    obtain ⟨m, hm⟩ : ∃ m, n.toNat = m + 1 :=
      Nat.exists_eq_add_one.2 (Nat.pos_of_ne_zero fun h0 => by
        simp [makesCycle, BitVec.toNat_eq, h0] at hi)
    rw [State.startString_stop hc, hm]
    exact read a _
  | vwrb a d => exact command _ ((route a _ hi).trans (write _ d))
  | vrdb a => exact command _ ((route a _ hi).trans (read _ _))
  | run =>
    refine command (fun u => (State.writeBytes (bootBytes u.cfg u.arch) u).bind fun _ w =>
      State.runMicros (releaseSteps w.cfg) w) ?_
    have hboot : State.writeBytes (bootBytes s.others.cfg s.others.arch) s.others =
        .stop (s.others.others.raise c) := by
      cases s.others.arch <;> exact writes _ _
    rw [hboot, Result.bind_stop]
  | _ => cases hi

/-- Settles O14: LINK_BUSY is looked at first, then the bus. -/
theorem cycleOnBusyLinkOrBusFaults : Obligations.CycleOnBusyLinkOrBusFaults := by
  intro i s hserved hi hinit
  refine ⟨fun hlink => ?reentry, fun hlink hbus => ?contention⟩
  case reentry => exact exec_of_linkCheck hserved hi hinit (by simp [State.linkCheck, hlink])
  case contention =>
    have hbusy : s.busFree = false := by
      rcases hbus with h | h <;> simp [State.busFree, h]
    exact exec_of_linkCheck hserved hi hinit (by simp [State.linkCheck, hlink, hbusy])

/-! ### WRB and RDB where their cycle runs (41_bus_link R150, R152, R154) -/

theorem waits_hostLog (k : Nat) (s : State) : hostLog (State.waits k s).hist = hostLog s.hist := by
  induction k generalizing s with
  | zero => rfl
  | succ k ih => exact (ih s.others).trans s.others_hostLog

/-- The state WRB leaves. -/
def wrbDone (a : Addr) (v : Byte) (s : State) : State :=
  ((State.waits 2 s).writeEffect a v).complete

theorem wrbDone_hostLog (a : Addr) (v : Byte) (s : State) :
    hostLog (wrbDone a v s).hist = hostLog s.hist ++ [.cyc .write a v] := by
  change hostLog ((State.waits 2 s).writeEffect a v).hist = _
  rw [State.writeEffect_hist, hostLog_append, waits_hostLog]
  rfl

/-- The bus is as free after WRB as before it. -/
theorem CanCycle.after_wrb {s : State} (a : Addr) (v : Byte) (h : CanCycle s) :
    CanCycle (wrbDone a v s) := by
  obtain ⟨hserved, hinit, -, hbus⟩ := h
  exact ⟨by simpa [HostServed, wrbDone] using hserved, by simpa [wrbDone] using hinit,
    by simp [wrbDone], by simpa [wrbDone, State.busFree, State.acked] using hbus⟩

/-- The byte WRB leaves at its own address of RAM_SET is the one a read there captures. -/
theorem CanCycle.captured_wrbDone {s : State} {a : Addr} (v : Byte) (h : CanCycle s)
    (hram : inRam s.cfg a = true) : (wrbDone a v s).captured a = v := by
  have hcfg : (wrbDone a v s).cfg = s.cfg := by simp [wrbDone]
  have hmem : (wrbDone a v s).memAt a = v :=
    (h.memAt_wrb a a v).trans (if_pos ⟨rfl, hram⟩)
  rw [State.captured, hcfg, if_pos hram, hmem]

/-- Settles O22: WRB is two boundaries, which store nothing while the bus is free, and the write cycle. -/
theorem wrbStoresItsByte : Obligations.WrbStoresItsByte := by
  intro s a d h
  refine ⟨wrbDone a d s, h.exec_wrb a d, ?completed, fun b => ?stored, wrbDone_hostLog a d s, ?link⟩
  case completed => exact ⟨by simp [wrbDone, State.complete], by simp [wrbDone, State.complete]⟩
  case stored =>
    refine (h.memAt_wrb a b d).trans ?_
    by_cases hb : b = a
    · rw [hb]
    · rw [if_neg fun hab => hb hab.1.symm, if_neg fun hba => hb hba.1]
  case link => simp [wrbDone]

/-- Settles O23: RDB is two boundaries, the read cycle and the write of Q. -/
theorem rdbReadsItsByte : Obligations.RdbReadsItsByte := by
  intro s a h
  have hcap : (State.waits 2 s).captured a = s.captured a :=
    State.captured_congr a (State.waits_cfg 2 s) (h.waits_mem 2) (State.waits_byteDraws 2 s)
  refine ⟨_, s.captured a, h.exec_rdb a, ?completed, fun hram => ?value, ?result, fun b => ?memory,
    ?hist, ?link⟩
  case completed => exact ⟨by simp [State.complete], by simp [State.complete]⟩
  case value => rw [State.captured, if_pos hram]
  case result => simp [zext16]
  case memory => simp [State.memAt, h.waits_mem]
  case hist =>
    change hostLog ((State.waits 2 s).readEffect a).hist = _
    rw [State.readEffect_hist, hcap, hostLog_append, waits_hostLog]
    rfl
  case link => simp [hcap]

/-- Settles O24: WRB leaves the bus free, so no other agent writes between it and the read, which captures
the byte it stored. -/
theorem writeThenReadGivesTheByte : Obligations.WriteThenReadGivesTheByte := by
  intro s a v h hram
  refine ⟨wrbDone a v s, _, h.exec_wrb a v, (h.after_wrb a v).exec_rdb a, ?_⟩
  simp [h.captured_wrbDone v hram, zext16]

end Sys2Proof.Safety
end

section
/-! The memory facade family (42_memory_facade): what a list of write cycles leaves, what a run of read cycles
has read, and where a string read can stop. -/

namespace Sys2Proof.Machine

open Sys2Proof.Safety

/-! ### Sequential addresses modulo 65536 (20_memory R72) -/

theorem addr_add_ofNat_succ (a : Addr) (j : Nat) :
    a + BitVec.ofNat 16 j + 1#16 = a + BitVec.ofNat 16 (j + 1) := by
  rw [BitVec.add_assoc, ← BitVec.ofNat_add]

theorem addr_succ_add_ofNat (a : Addr) (j : Nat) :
    a + 1#16 + BitVec.ofNat 16 j = a + BitVec.ofNat 16 (j + 1) := by
  rw [BitVec.add_assoc, BitVec.add_comm 1#16, ← BitVec.add_assoc, addr_add_ofNat_succ]

theorem bytesFrom_eq_map_range (a : Addr) (bs : List Byte) :
    bytesFrom a bs =
      (List.range bs.length).map fun j => (a + BitVec.ofNat 16 j, bs.getD j 0x00#8) := by
  induction bs generalizing a with
  | nil => rfl
  | cons b rest ih =>
    simp [bytesFrom, ih, List.range_succ_eq_map, Function.comp_def, addr_succ_add_ofNat]

/-- Fewer than 65536 bytes do not wrap around to the address before them. -/
theorem addr_not_mem_bytesFrom_succ (a : Addr) {bs : List Byte} (h : bs.length < 65536) :
    a ∉ (bytesFrom (a + 1#16) bs).map Prod.fst := by
  simp only [bytesFrom_eq_map_range, List.map_map, List.mem_map, List.mem_range, not_exists, not_and,
    Function.comp_apply]
  intro j hj
  bv_omega

/-! ### The last write to an address -/

theorem lastWrite_eq_none {ws : List (Addr × Byte)} {b : Addr} (h : b ∉ ws.map Prod.fst) :
    lastWrite ws b = none := by
  induction ws with
  | nil => rfl
  | cons p rest ih =>
    rw [List.map_cons, List.mem_cons, not_or] at h
    obtain ⟨hp, hrest⟩ := h
    simp [lastWrite, ih hrest, Ne.symm hp]

/-- At most 65536 bytes in a row overwrite none of each other. -/
theorem lastWrite_bytesFrom {a : Addr} {bs : List Byte} {j : Nat} (hlen : bs.length ≤ 65536)
    (hj : j < bs.length) :
    lastWrite (bytesFrom a bs) (a + BitVec.ofNat 16 j) = some (bs.getD j 0x00#8) := by
  induction bs generalizing a j with
  | nil => cases hj
  | cons b rest ih =>
    cases j with
    | zero => simp [bytesFrom, lastWrite, lastWrite_eq_none (addr_not_mem_bytesFrom_succ a hlen)]
    | succ j =>
      simp only [List.length_cons] at hlen hj
      have hrest := ih (a := a + 1#16) (j := j) (by omega) (by omega)
      rw [addr_succ_add_ofNat] at hrest
      simp only [bytesFrom, lastWrite, hrest, List.getD_cons_succ]

/-- The first write of a list, then the rest of it. -/
theorem byteAfter_writeEffect (s : State) (a b : Addr) (v : Byte) (rest : List (Addr × Byte)) :
    byteAfter (s.writeEffect a v) rest b = byteAfter s ((a, v) :: rest) b := by
  simp only [byteAfter, lastWrite, State.writeEffect_cfg, State.memAt_writeEffect]
  by_cases hab : a = b
  · subst hab
    cases lastWrite rest a <;> by_cases hram : inRam s.cfg a = true <;> simp [hram]
  · cases lastWrite rest b <;> simp [hab]

end Sys2Proof.Machine

namespace Sys2Proof.Safety

open Sys2Proof.Machine

/-! ### A list of write cycles where they can run (42_memory_facade R170) -/

theorem CanCycle.others {s : State} (h : CanCycle s) : CanCycle s.others := by
  simpa [CanCycle, HostServed] using h

theorem CanCycle.writeEffect {s : State} (a : Addr) (v : Byte) (h : CanCycle s) :
    CanCycle (s.writeEffect a v) := by
  obtain ⟨hserved, hinit, -, hbus⟩ := h
  exact ⟨by simpa [HostServed] using hserved, by simpa using hinit, by simp, by simpa using hbus⟩

theorem CanCycle.byteAfter_others {s : State} (ws : List (Addr × Byte)) (b : Addr) (h : CanCycle s) :
    byteAfter s.others ws b = byteAfter s ws b := by
  obtain ⟨-, -, -, hbus⟩ := h
  simp [byteAfter, State.others_memAt_of_busFree hbus]

/-- The write cycles `ws` have run since `s`, and nothing else of the host. -/
structure Written (s : State) (ws : List (Addr × Byte)) (u : State) : Prop where
  bytes : ∀ b, u.memAt b = byteAfter s ws b
  log : hostLog u.hist = hostLog s.hist ++ writeEvents ws
  cpos : u.cpos = s.cpos
  fault : u.fault = s.fault

theorem CanCycle.writeBytes {s : State} (ws : List (Addr × Byte)) (h : CanCycle s) :
    ∃ u, State.writeBytes ws s = .ok () u ∧ Written s ws u := by
  induction ws generalizing s with
  | nil => exact ⟨s, rfl, by simp [byteAfter, lastWrite], by simp [writeEvents], rfl, rfl⟩
  | cons p rest ih =>
    obtain ⟨a, v⟩ := p
    obtain ⟨u, hrun, hbytes, hlog, hcpos, hfault⟩ := ih (h.others.writeEffect a v)
    have ⟨hserved, _, hlink, hbus⟩ := h
    refine ⟨u, ?run, fun b => ?bytes, ?log, by simpa using hcpos, by simpa using hfault⟩
    case run => rw [State.writeBytes_cons_ok a v rest hserved (State.linkCheck_none hlink hbus), hrun]
    case bytes => rw [hbytes, byteAfter_writeEffect, h.byteAfter_others]
    case log =>
      rw [hlog, State.writeEffect_hist, hostLog_append, State.others_hostLog, List.append_assoc]
      rfl

/-- A command that is write cycles of the bytes `bs` in a row. -/
theorem CanCycle.exec_writeBytes {s : State} {i : Instr} {a : Addr} {bs : List Byte} (h : CanCycle s)
    (hi : exec i s = (s.requireInit.bind fun _ u => State.writeBytes (bytesFrom a bs) u).finish)
    (hlen : bs.length ≤ 65536) :
    ∃ t, exec i s = .next t ∧ Completed s t ∧
      (∀ j, j < bs.length → inRam s.cfg (a + BitVec.ofNat 16 j) = true →
        t.memAt (a + BitVec.ofNat 16 j) = bs.getD j 0x00#8) ∧
      hostLog t.hist = hostLog s.hist ++ (List.range bs.length).map
        (fun j => .cyc .write (a + BitVec.ofNat 16 j) (bs.getD j 0x00#8)) := by
  obtain ⟨u, hrun, hbytes, hlog, hcpos, hfault⟩ := h.others.writeBytes (bytesFrom a bs)
  obtain ⟨hinit, -, -⟩ := h.requireInit
  refine ⟨u.complete, ?run, ⟨?counted, ?fault⟩, fun j hj hram => ?stored, ?log⟩
  case run => rw [hi, hinit, Result.bind_ok, hrun, Result.finish_ok]
  case counted => simp [State.complete, hcpos]
  case fault => simpa using hfault
  case stored =>
    calc u.memAt (a + BitVec.ofNat 16 j)
        = byteAfter s (bytesFrom a bs) (a + BitVec.ofNat 16 j) := by rw [hbytes, h.byteAfter_others]
      _ = bs.getD j 0x00#8 := by
        rw [byteAfter, if_pos hram, lastWrite_bytesFrom hlen hj, Option.getD_some]
  case log =>
    change hostLog u.hist = _
    rw [hlog, State.others_hostLog, bytesFrom_eq_map_range, writeEvents, List.map_map]
    rfl

/-! ### The bytes of a word, a long and a text -/

@[simp] theorem length_bytes16 (d : Word16) : (bytes16 d).length = 2 := rfl

@[simp] theorem length_bytes32 (d : Word32) : (bytes32 d).length = 4 := rfl

theorem getD_bytes32 (d : Word32) {j : Nat} (hj : j < 4) :
    (bytes32 d).getD j 0x00#8 = d.extractLsb' (8 * j) 8 := by
  refine BitVec.eq_of_getLsbD_eq fun i hi => ?_
  interval_cases j <;>
    simp [bytes32, bytes16, lowHalf, highHalf, lowByte, highByte, ← Nat.add_assoc, hi] <;> omega

theorem getD_text_terminator (t : List Byte) (j : Nat) :
    (t ++ [0x00#8]).getD j 0x00#8 = t.getD j 0x00#8 := by
  rcases Nat.lt_or_ge j t.length with h | h
  · exact List.getD_append t [0x00#8] 0x00#8 j h
  · rw [List.getD_append_right t _ _ j h, List.getD_eq_default t _ h]
    cases j - t.length <;> rfl

/-- Settles O27: the two bytes of the word in a row. -/
theorem wrwStoresLittleEndianWord : Obligations.WrwStoresLittleEndianWord := by
  intro s a d h
  obtain ⟨t, hrun, hdone, hbytes, hlog⟩ :=
    h.exec_writeBytes (i := .wrw a d) (bs := bytes16 d) rfl (by simp)
  refine ⟨t, hrun, hdone, fun hram => ?low, hbytes 1 (by simp), ?log⟩
  case low =>
    have hlow := hbytes 0 (by simp)
    simp only [BitVec.add_zero] at hlow
    exact hlow hram
  case log => simpa [List.range_succ, bytes16, lowByte, highByte] using hlog

/-- Settles O29: the four bytes of the long in a row. -/
theorem wrlStoresLittleEndianLong : Obligations.WrlStoresLittleEndianLong := by
  intro s a d h
  obtain ⟨t, hrun, hdone, hbytes, hlog⟩ :=
    h.exec_writeBytes (i := .wrl a d) (bs := bytes32 d) rfl (by simp)
  refine ⟨t, hrun, hdone, fun j hj hram => ?stored, hlog.trans ?log⟩
  case stored => rw [hbytes j hj hram, getD_bytes32 d hj]
  case log =>
    refine congrArg _ (List.map_congr_left fun j hj => ?_)
    rw [getD_bytes32 d (List.mem_range.1 hj)]

/-- Settles O30: the text and its terminator in a row. -/
theorem wrtStoresTextAndTerminator : Obligations.WrtStoresTextAndTerminator := by
  intro s a text h hlen
  obtain ⟨t, hrun, hdone, hbytes, hlog⟩ :=
    h.exec_writeBytes (i := .wrt a text) (bs := text ++ [0x00#8]) rfl (by simpa using hlen)
  simp only [getD_text_terminator, List.length_append, List.length_singleton] at hbytes hlog
  exact ⟨t, hrun, hdone, fun j hj => hbytes j (Nat.lt_succ_of_le hj), hlog⟩

/-! ### A run of read cycles at sequential addresses -/

/-- The events of the read cycles from `a` on that returned `got`. -/
def readEvents (a : Addr) (got : List Byte) : List Event :=
  (List.range got.length).map fun j => .cyc .read (a + BitVec.ofNat 16 j) (got.getD j 0x00#8)

theorem readEvents_concat (a : Addr) (got : List Byte) (b : Byte) :
    readEvents a (got ++ [b]) =
      readEvents a got ++ [.cyc .read (a + BitVec.ofNat 16 got.length) b] := by
  have hfirst : ∀ j ∈ List.range got.length,
      Event.cyc .read (a + BitVec.ofNat 16 j) ((got ++ [b]).getD j 0x00#8) =
        .cyc .read (a + BitVec.ofNat 16 j) (got.getD j 0x00#8) := fun j hj => by
    rw [List.getD_append _ _ _ _ (List.mem_range.1 hj)]
  rw [readEvents, List.length_append, List.length_singleton, List.range_succ, List.map_append,
    List.map_congr_left hfirst]
  simp [readEvents]

/-- The bytes `got` are Mem's from `a` on wherever the address is in RAM_SET. -/
def FromMemory (s : State) (a : Addr) (got : List Byte) : Prop :=
  ∀ j, j < got.length → inRam s.cfg (a + BitVec.ofNat 16 j) = true →
    got.getD j 0x00#8 = s.memAt (a + BitVec.ofNat 16 j)

theorem FromMemory.concat {s : State} {a : Addr} {got : List Byte} {b : Byte}
    (h : FromMemory s a got) (hb : inRam s.cfg (a + BitVec.ofNat 16 got.length) = true →
      b = s.memAt (a + BitVec.ofNat 16 got.length)) : FromMemory s a (got ++ [b]) := by
  intro j hj hram
  rw [List.length_append, List.length_singleton] at hj
  rcases Nat.lt_succ_iff_lt_or_eq.1 hj with hlt | rfl
  · rw [List.getD_append _ _ _ _ hlt, h j hlt hram]
  · simpa using hb hram

/-- Since `s` the host has made the read cycles from `a` on that returned `got`, and the next one can run. -/
structure Reading (s : State) (a : Addr) (got : List Byte) (u : State) : Prop where
  bytes : FromMemory s a got
  log : hostLog u.hist = hostLog s.hist ++ readEvents a got
  cfg : u.cfg = s.cfg
  mem : u.mem = s.mem
  cpos : u.cpos = s.cpos
  fault : u.fault = s.fault
  free : u.linkCheck = none
  served : HostServed s → HostServed u

theorem Reading.start {s : State} (a : Addr) (h : s.linkCheck = none) : Reading s a [] s :=
  ⟨fun _ hj => absurd hj (Nat.not_lt_zero _), by simp [readEvents], rfl, rfl, rfl, rfl, h, id⟩

section

variable {s u : State} {a : Addr} {got : List Byte}

theorem Reading.others (h : Reading s a got u) : Reading s a got u.others where
  bytes := h.bytes
  log := by simpa using h.log
  cfg := by simpa using h.cfg
  mem := (State.others_mem_of_busFree ((State.linkCheck_eq_none_iff u).1 h.free).2).trans h.mem
  cpos := by simpa using h.cpos
  fault := by simpa using h.fault
  free := by simpa using h.free
  served hs := by simpa [HostServed] using h.served hs

theorem Reading.spend (h : Reading s a got u) : Reading s a got u.spend where
  bytes := h.bytes
  log := by simpa using h.log
  cfg := by simpa using h.cfg
  mem := by simpa using h.mem
  cpos := by simpa using h.cpos
  fault := by simpa using h.fault
  free := by simpa using h.free
  served hs := by simpa [HostServed, State.spend_of_served (h.served hs)] using h.served hs

/-- The string result is none of what the cycles read. -/
theorem Reading.setString (buf : List Byte) (terminated : Bool) (h : Reading s a got u) :
    Reading s a got (u.setString buf terminated) :=
  ⟨h.bytes, h.log, h.cfg, h.mem, h.cpos, h.fault, h.free, h.served⟩

theorem Reading.readEffect (h : Reading s a got u) :
    Reading s a (got ++ [u.captured (a + BitVec.ofNat 16 got.length)])
      (u.readEffect (a + BitVec.ofNat 16 got.length)) where
  bytes := h.bytes.concat fun hram => by
    rw [State.captured, h.cfg, if_pos hram, State.memAt, State.memAt, h.mem]
  log := by
    rw [State.readEffect_hist, hostLog_append, h.log, readEvents_concat, List.append_assoc]
    rfl
  cfg := by simpa using h.cfg
  mem := by simpa using h.mem
  cpos := by simpa using h.cpos
  fault := by simpa using h.fault
  free := State.readEffect_linkCheck _ h.free
  served hs := by simpa [HostServed] using h.served hs

/-- The next read cycle runs, or the host is denied and stands where it is. -/
theorem Reading.readCycle (h : Reading s a got u) :
    (HostDenied u ∧ u.readCycle (a + BitVec.ofNat 16 got.length) = .stop u.others) ∨
    ∃ b w, u.readCycle (a + BitVec.ofNat 16 got.length) = .ok b w ∧ Reading s a (got ++ [b]) w ∧
      w.qbuf = u.qbuf := by
  rcases u.readCycle_cases (a + BitVec.ofNat 16 got.length) with
    ⟨hdenied, hr⟩ | ⟨c, hc, -⟩ | ⟨-, hr⟩
  · exact .inl ⟨hdenied, hr⟩
  · rw [h.free] at hc; cases hc
  · exact .inr ⟨_, _, hr, h.others.spend.readEffect, by simp⟩

theorem Reading.not_denied (h : Reading s a got u) (hs : HostServed s) : ¬ HostDenied u := by
  rw [HostDenied, h.served hs]
  simp

/-- A served host makes the next read cycle. -/
theorem Reading.readCycle_served (h : Reading s a got u) (hs : HostServed s) :
    ∃ b w, u.readCycle (a + BitVec.ofNat 16 got.length) = .ok b w ∧ Reading s a (got ++ [b]) w := by
  rcases h.readCycle with ⟨hdenied, -⟩ | ⟨b, w, hr, hw, -⟩
  · exact absurd hdenied (h.not_denied hs)
  · exact ⟨b, w, hr, hw⟩

end

/-- Settles O28: two read cycles, then Q from the bytes they returned. -/
theorem rdwReadsLittleEndianWord : Obligations.RdwReadsLittleEndianWord := by
  intro s a h
  have ⟨hserved, _, hlink, hbus⟩ := h
  obtain ⟨hinit, -, -⟩ := h.requireInit
  have hstart := (Reading.start a (State.linkCheck_none hlink hbus)).others
  obtain ⟨lo, v, hlo, hv⟩ := hstart.readCycle_served hserved
  obtain ⟨hi, w, hhi, hw⟩ := hv.readCycle_served hserved
  refine ⟨(w.setQ (joinBytes lo hi)).complete, lo, hi, ?run, ⟨?counted, ?fault⟩, fun hram => ?low,
    hw.bytes 1 (by simp), toNat_joinBytes lo hi, ?log⟩
  case run =>
    simp only [List.length_nil, BitVec.add_zero] at hlo
    change (s.requireInit.bind fun _ u => (u.readCycle a).bind fun lo u =>
      (u.readCycle (a + 1#16)).bind fun hi u => .ok () (u.setQ (joinBytes lo hi))).finish = _
    rw [hinit, Result.bind_ok, hlo, Result.bind_ok]
    exact congrArg (fun r : Result Byte =>
      (r.bind fun hi u => .ok () (u.setQ (joinBytes lo hi))).finish) hhi
  case counted => simp [State.complete, hw.cpos]
  case fault => simpa using hw.fault
  case low => simpa using hw.bytes 0 (by simp) (by simpa using hram)
  case log => simpa [readEvents, List.range_succ] using hw.log

/-! ### The string read (42_memory_facade R180) -/

/-- How the loop of RDS ends: QBUF is what was read up to a zero byte or to `n` bytes in all, or, with the
host denied, so far. -/
def StringRead (s : State) (a : Addr) (n : Nat) : Result Unit → Prop
  | .ok _ w => 0x00#8 ∉ w.qbuf ∧ ∃ got, Reading s a got w ∧ got.length ≤ n ∧
      ((w.qt = true ∧ got = w.qbuf ++ [0x00#8]) ∨
        (w.qt = false ∧ got = w.qbuf ∧ got.length = n))
  | .stop w => 0x00#8 ∉ w.qbuf ∧ Reading s a w.qbuf w ∧ w.qbuf.length ≤ n ∧ w.qt = false ∧
      HostDenied w

theorem Reading.readString {s u : State} {a : Addr} (n : Nat) (h : Reading s a u.qbuf u)
    (hzero : 0x00#8 ∉ u.qbuf) (hqt : u.qt = false) :
    StringRead s a (u.qbuf.length + n)
      (State.readString n (a + BitVec.ofNat 16 u.qbuf.length) u.qbuf u) := by
  induction n generalizing u with
  | zero => exact ⟨hzero, u.qbuf, h.setString _ _, le_rfl, .inr ⟨rfl, rfl, rfl⟩⟩
  | succ n ih =>
    rw [State.readString]
    rcases h.readCycle with ⟨hdenied, hr⟩ | ⟨b, w, hr, hw, hbuf⟩ <;> rw [hr]
    · refine ⟨by simpa using hzero, by simpa using h.others, by simp, by simpa using hqt, ?_⟩
      simpa [HostDenied] using hdenied
    · rw [Result.bind_ok]
      split
      · next hb =>
        subst hb
        exact ⟨hzero, _, hw.setString _ _, by simp, .inl ⟨rfl, rfl⟩⟩
      · next hb =>
        have hnext := ih (u := w.setString (u.qbuf ++ [b]) false) (hw.setString _ _)
          (by simpa [hzero] using Ne.symm hb) rfl
        simpa [addr_add_ofNat_succ, Nat.add_assoc, Nat.add_comm 1 n] using hnext

/-- Where its first cycle can run, RDS clears QBUF and QT and reads. -/
theorem Reading.rds {s u : State} {a : Addr} (n : Nat) (h : Reading s a [] u) :
    StringRead s a n (State.readString n a [] u.startString) := by
  rw [State.startString_ok h.free]
  simpa using Reading.readString (u := u.setString [] false) n (h.setString [] false) (by simp) rfl

/-- RDS on a free link: the host served, its loop comes to an end. -/
theorem CanCycle.exec_rds {s : State} (a : Addr) (n : Word16) (h : CanCycle s) :
    ∃ t got, exec (.rds a n) s = .next t ∧ Completed s t ∧ got.length ≤ n.toNat ∧
      FromMemory s a got ∧ hostLog t.hist = hostLog s.hist ++ readEvents a got ∧
      0x00#8 ∉ t.qbuf ∧
      ((t.qt = true ∧ got = t.qbuf ++ [0x00#8]) ∨
        (t.qt = false ∧ got = t.qbuf ∧ got.length = n.toNat)) := by
  have ⟨hserved, _, hlink, hbus⟩ := h
  obtain ⟨hinit, -, -⟩ := h.requireInit
  have hread := (Reading.start a (State.linkCheck_none hlink hbus)).others.rds n.toNat
  have hexec : exec (.rds a n) s = (State.readString n.toNat a [] s.others.startString).finish := by
    change (s.requireInit.bind fun _ u => State.readString n.toNat a [] u.startString).finish = _
    rw [hinit, Result.bind_ok]
  rw [hexec]
  cases hr : State.readString n.toNat a [] s.others.startString with
  | stop w =>
    rw [hr] at hread
    obtain ⟨-, hw, -, -, hdenied⟩ := hread
    exact absurd hdenied (hw.not_denied hserved)
  | ok x w =>
    rw [hr] at hread
    obtain ⟨hzero, got, hw, hlen, hend⟩ := hread
    exact ⟨w.complete, got, rfl, ⟨congrArg (· + 1) hw.cpos, hw.fault⟩, hlen, hw.bytes, hw.log, hzero,
      hend⟩

/-- The bytes of Mem from `a` on. -/
def memFrom (s : State) (a : Addr) (n : Nat) : List Byte :=
  (List.range n).map fun j => s.memAt (a + BitVec.ofNat 16 j)

@[simp] theorem length_memFrom (s : State) (a : Addr) (n : Nat) : (memFrom s a n).length = n := by
  simp [memFrom]

theorem memFrom_succ (s : State) (a : Addr) (n : Nat) :
    memFrom s a (n + 1) = memFrom s a n ++ [s.memAt (a + BitVec.ofNat 16 n)] := by
  simp [memFrom, List.range_succ]

theorem zero_not_mem_memFrom {s : State} {a : Addr} {n : Nat} :
    0x00#8 ∉ memFrom s a n ↔ ∀ j, j < n → s.memAt (a + BitVec.ofNat 16 j) ≠ 0x00#8 := by
  simp [memFrom]

theorem readEvents_memFrom (s : State) (a : Addr) (n : Nat) :
    readEvents a (memFrom s a n) = (List.range n).map
      fun j => .cyc .read (a + BitVec.ofNat 16 j) (s.memAt (a + BitVec.ofNat 16 j)) := by
  rw [readEvents, length_memFrom]
  refine List.map_congr_left fun j hj => ?_
  simp [memFrom, List.mem_range.1 hj]

/-- A string that lies in RAM_SET is read as Mem holds it. -/
theorem FromMemory.eq_memFrom {s : State} {a : Addr} {got : List Byte} {n : Nat}
    (h : FromMemory s a got) (hram : ∀ j, j < n → inRam s.cfg (a + BitVec.ofNat 16 j) = true)
    (hlen : got.length ≤ n) : got = memFrom s a got.length := by
  refine List.ext_getElem (by simp) fun j hj _ => ?_
  simpa [memFrom, List.getElem?_eq_getElem hj] using h j hj (hram j (hj.trans_le hlen))

/-- RDS of a string that lies in RAM_SET ends at the first zero byte Mem holds there, or after `n` bytes
that are none. -/
theorem CanCycle.exec_rds_inRam {s : State} {a : Addr} {n : Word16} (h : CanCycle s)
    (hram : ∀ j, j < n.toNat → inRam s.cfg (a + BitVec.ofNat 16 j) = true) :
    ∃ t m, exec (.rds a n) s = .next t ∧ Completed s t ∧ t.qbuf = memFrom s a m ∧
      (∀ j, j < m → s.memAt (a + BitVec.ofNat 16 j) ≠ 0x00#8) ∧
      ((t.qt = true ∧ m < n.toNat ∧ s.memAt (a + BitVec.ofNat 16 m) = 0x00#8 ∧
          hostLog t.hist = hostLog s.hist ++ readEvents a (memFrom s a (m + 1))) ∨
        (t.qt = false ∧ m = n.toNat ∧
          hostLog t.hist = hostLog s.hist ++ readEvents a (memFrom s a m))) := by
  obtain ⟨t, got, hrun, hdone, hlen, hbytes, hlog, hzero, hend⟩ := h.exec_rds a n
  have hgot := hbytes.eq_memFrom hram hlen
  rcases hend with ⟨hqt, hstop⟩ | ⟨hqt, hall, hn⟩
  · have hlength : got.length = t.qbuf.length + 1 := by simp [hstop]
    rw [hlength] at hgot hlen
    obtain ⟨hbuf, hterm⟩ := List.append_inj' (hstop.symm.trans (hgot.trans (memFrom_succ ..))) rfl
    refine ⟨t, t.qbuf.length, hrun, hdone, hbuf, zero_not_mem_memFrom.1 (hbuf ▸ hzero),
      .inl ⟨hqt, hlen, (List.singleton_inj.1 hterm).symm, hgot ▸ hlog⟩⟩
  · subst hall
    exact ⟨t, _, hrun, hdone, hgot, zero_not_mem_memFrom.1 (hgot ▸ hzero), .inr ⟨hqt, hn, hgot ▸ hlog⟩⟩

/-- Settles O31: the byte RDS stops at is the first zero Mem holds, so it is the given one. -/
theorem rdsReadsUpToTerminator : Obligations.RdsReadsUpToTerminator := by
  intro s a n h hram
  obtain ⟨t, m, hrun, hdone, hbuf, hnz, hend⟩ := h.exec_rds_inRam hram
  refine ⟨fun k hk hzero hfirst => ?_, fun hnone => ?_⟩
  · rcases hend with ⟨hqt, -, hmzero, hlog⟩ | ⟨-, rfl, -⟩
    · have hmk : m = k := by
        rcases Nat.lt_trichotomy m k with hlt | heq | hgt
        · exact absurd hmzero (hfirst m hlt)
        · exact heq
        · exact absurd hzero (hnz k hgt)
      subst hmk
      exact ⟨t, hrun, hdone, hqt, hbuf, readEvents_memFrom s a (m + 1) ▸ hlog⟩
    · exact absurd hzero (hnz k hk)
  · rcases hend with ⟨-, hm, hmzero, -⟩ | ⟨hqt, rfl, hlog⟩
    · exact absurd hmzero (hnone m hm)
    · exact ⟨t, hrun, hdone, hqt, hbuf, readEvents_memFrom s a n.toNat ▸ hlog⟩

/-- Settles O33: no cycle, so the bus and the link are not looked at. -/
theorem rdsOfLengthZeroMakesNoCycle : Obligations.RdsOfLengthZeroMakesNoCycle := by
  intro s a hserved hinit
  refine ⟨(s.others.startString.setString [] false).complete, ?run, ⟨?counted, ?fault⟩, rfl, rfl, ?log,
    ?link, ?busy⟩
  case run =>
    change (s.requireInit.bind fun _ u => State.readString 0 a [] u.startString).finish = _
    rw [State.requireInit_ok hserved hinit]
    rfl
  case counted => simp [State.complete]
  case fault => simp
  case log => simp
  case link => simp [KeepsLink]
  case busy => simp

/-! ### An RDS cut short (60_exceptions R351) -/

/-- A raise that leaves FAULT as it was changes nothing (60_exceptions R341). -/
theorem FaultedAt.pristine {k : Nat} {s t : State} (h : FaultedAt k s t) (hfault : t.fault = s.fault) :
    Pristine k s t := by
  obtain ⟨c, share, rfl, hnone⟩ := h
  refine ⟨share, ?_, hnone⟩
  cases hf : s.fault with
  | none => simp [State.raise, hf] at hfault
  | some d => simp [State.raise, hf]

theorem Pristine.hostLog {k : Nat} {s t : State} (h : Pristine k s t) :
    hostLog t.hist = hostLog s.hist := by
  obtain ⟨share, rfl, -⟩ := h
  rw [State.setHostShare_hist, waits_hostLog]

theorem Pristine.keepsString {k : Nat} {s t : State} (h : Pristine k s t) : KeepsString s t := by
  obtain ⟨share, rfl, -⟩ := h
  simp [KeepsString]

/-- RDS comes to its first read cycle, and that cycle does not raise. -/
abbrev StartsString (s : State) : Prop :=
  ¬ HostDenied s ∧ s.initialised = true ∧ s.linkBusy = false ∧ s.busFree = true

/-- Where the link or the bus is busy RDS stops at its first cycle, before any effect. -/
theorem Pristine.readString_stop {s u t : State} {c : FaultCode} {k n : Nat} {a : Addr}
    (h : Pristine k s u) (hcheck : u.linkCheck = some c)
    (hstop : State.readString n a [] u = .stop t) :
    Pristine (k + 1) s t ∨ FaultedAt (k + 1) s t := by
  cases n with
  | zero => cases hstop
  | succ n =>
    rw [State.readString] at hstop
    rcases u.readCycle_cases a with ⟨-, hr⟩ | ⟨c, -, hr⟩ | ⟨hnone, -⟩
    · rw [hr] at hstop
      cases hstop
      exact .inl h.others
    · rw [hr] at hstop
      cases hstop
      exact .inr (h.others.spend.raise c)
    · rw [hcheck] at hnone
      cases hnone

/-- Everything an RDS that does not complete has done. -/
theorem rds_stop_cases {s t : State} {a : Addr} {n : Nat}
    (h : (s.requireInit.bind fun _ u => State.readString n a [] u.startString) = .stop t) :
    (StartsString s ∧ StringRead s a n (.stop t)) ∨
    (¬ StartsString s ∧ ∃ k, Pristine k s t ∨ FaultedAt k s t) := by
  have hstart : Pristine 0 s s := ⟨s.hostShare, rfl, id⟩
  rcases s.requireInit_cases with ⟨hdenied, hr⟩ | ⟨hinit, hr⟩ | ⟨hinit, hr⟩ <;>
    rw [hr] at h
  · cases h
    exact .inr ⟨fun ⟨hnd, _⟩ => hnd hdenied, 1, .inl hstart.others⟩
  · cases h
    exact .inr ⟨fun ⟨_, hi, _⟩ => by simp [hi] at hinit, 1, .inr (hstart.others.spend.raise _)⟩
  · have hnd : ¬ HostDenied s := fun hd => by simp [State.requireInit, hd] at hr
    rw [Result.bind_ok] at h
    cases hcheck : s.linkCheck with
    | none =>
      obtain ⟨hlink, hbus⟩ := (State.linkCheck_eq_none_iff s).1 hcheck
      exact .inl ⟨⟨hnd, hinit, hlink, hbus⟩, h ▸ (Reading.start a hcheck).others.spend.rds n⟩
    | some c =>
      have hbusy : s.others.spend.linkCheck = some c := by simpa using hcheck
      rw [State.startString_stop hbusy] at h
      refine .inr ⟨fun ⟨_, _, hlink, hbus⟩ => ?_, 2, hstart.others.spend.readString_stop hbusy h⟩
      rw [State.linkCheck_none hlink hbus] at hcheck
      cases hcheck

/-- An RDS cut short has not come to its end: CPOS does not count it. -/
theorem rds_stop_of_cutShort {s t : State} {a : Addr} {n : Word16}
    (hexec : exec (.rds a n) s = .next t) (hcut : CutShort s t) :
    (s.requireInit.bind fun _ u => State.readString n.toNat a [] u.startString) = .stop t := by
  have hframed := framed_requireInit (ReadKeepsSoFar.hostKept (.rds a n) s)
    fun u hu => framed_rds a n hu
  obtain ⟨w, hw, hstop | ⟨u, hok, rfl⟩⟩ := Result.finish_next
    (s.requireInit.bind fun _ u => State.readString n.toNat a [] u.startString)
  · obtain rfl : w = t := Host.Outcome.next.inj (hw.symm.trans hexec)
    exact hstop
  · rw [hok] at hframed
    obtain ⟨k, hu⟩ := hframed
    obtain rfl : u.complete = t := Host.Outcome.next.inj (hw.symm.trans hexec)
    obtain ⟨-, hcpos, -⟩ := hcut
    exact absurd ((congrArg (· + 1) hu.cpos).symm.trans hcpos) (Nat.succ_ne_self _)

/-- Settles O32: a served host comes to the loop's end; a denied one stands inside the loop, or before its
first cycle. -/
theorem rdsStopsAtFirstZeroRead : Obligations.RdsStopsAtFirstZeroRead := by
  refine ⟨fun s a n h => h.exec_rds a n, fun s t a n hexec hcut => ?_⟩
  have ⟨_, _, hfault⟩ := hcut
  rcases rds_stop_cases (rds_stop_of_cutShort hexec hcut) with
    ⟨hstarts, hzero, hread, hlen, hqt, -⟩ | ⟨hnot, k, hstop⟩
  · refine ⟨t.qbuf, hlen, hzero, hread.bytes, hread.log, ?_⟩
    rw [if_pos hstarts]
    exact ⟨rfl, hqt⟩
  · have hpristine : Pristine k s t := hstop.elim id fun h => h.pristine hfault
    refine ⟨[], Nat.zero_le _, List.not_mem_nil, fun j hj => absurd hj (Nat.not_lt_zero j), ?_, ?_⟩
    · simpa using hpristine.hostLog
    · rw [if_neg hnot]
      exact ⟨rfl, hpristine.keepsString⟩

end Sys2Proof.Safety
end

section
/-! The video family (43_video_demux): the translated address as a number, the region by row and column, and
a video command as the linear command at the translated address. -/

namespace Sys2Proof.Machine

open Sys2Proof.Safety

/-! ### The video region (43_video_demux R210, R211) -/

theorem inVideoRegion_eq_true_iff {c : Config} {v : Addr} :
    inVideoRegion c v = true ↔
      c.videoBase.toNat ≤ v.toNat ∧ v.toNat < c.videoBase.toNat + c.videoSize := by
  simp [inVideoRegion]

theorem inVideoRegion_eq_false_iff {c : Config} {v : Addr} :
    inVideoRegion c v = false ↔
      v.toNat < c.videoBase.toNat ∨ c.videoBase.toNat + c.videoSize ≤ v.toNat := by
  rw [← Bool.not_eq_true, inVideoRegion_eq_true_iff]
  omega

/-- An offset that stays inside the address space is not reduced. -/
theorem toNat_videoBase_add {c : Config} {n : Nat} (h : c.videoBase.toNat + n < 65536) :
    (c.videoBase + BitVec.ofNat 16 n).toNat = c.videoBase.toNat + n := by
  rw [BitVec.toNat_add, BitVec.toNat_ofNat, Nat.add_mod_mod, Nat.mod_eq_of_lt h]

/-- Byte k of row r, for a row of 38 visible bytes. -/
theorem videoRow_of_offset {c : Config} {r k : Nat} (hk : k < 38)
    (h : c.videoBase.toNat + (38 * r + k) < 65536) :
    videoRow c (c.videoBase + BitVec.ofNat 16 (38 * r + k)) = r := by
  rw [videoRow, toNat_videoBase_add h, Config.videoRowWidth]
  omega

/-- Every virtual address is some byte of some row. -/
theorem exists_row_column_of_inVideoRegion {c : Config} {v : Addr} (h : inVideoRegion c v = true) :
    ∃ r k, k < 38 ∧ 38 * r + k < c.videoSize ∧ v = c.videoBase + BitVec.ofNat 16 (38 * r + k) := by
  obtain ⟨hlow, hhigh⟩ := inVideoRegion_eq_true_iff.1 h
  have hdiv := Nat.div_add_mod (v.toNat - c.videoBase.toNat) 38
  refine ⟨(v.toNat - c.videoBase.toNat) / 38, (v.toNat - c.videoBase.toNat) % 38,
    Nat.mod_lt _ (by decide), by omega, ?_⟩
  exact BitVec.eq_of_toNat_eq (by rw [hdiv, toNat_videoBase_add (by omega)]; omega)

/-! ### The translation (43_video_demux R212, R221) -/

theorem toNat_xlate (c : Config) (v : Addr) :
    (xlate c v).toNat = (v.toNat + c.videoBias.toNat +
      2 * ((v.toNat - c.videoBase.toNat) / 38) + 65536 - 2) % 65536 := by
  simp only [xlate, Config.videoGap, videoRow, Config.videoRowWidth]
  generalize (v.toNat - c.videoBase.toNat) / 38 = row
  bv_omega

/-- An address with the value of the formula is the translated one. -/
theorem eq_xlate_of_toNat {c : Config} {a p : Addr}
    (h : p.toNat = (a.toNat + c.videoBias.toNat +
      2 * ((a.toNat - c.videoBase.toNat) / 38) + 65536 - 2) % 65536) : p = xlate c a :=
  BitVec.eq_of_toNat_eq (h.trans (toNat_xlate c a).symm)

/-- Two offsets that do not wrap land on one address only if they are the same. -/
theorem addr_add_ofNat_inj {a : Addr} {m n : Nat} (hm : m < 65536) (hn : n < 65536)
    (h : a + BitVec.ofNat 16 m = a + BitVec.ofNat 16 n) : m = n := by
  bv_omega

/-- Rows have stride 40: 38 visible bytes and the gap (R221). -/
theorem xlate_row_column {c : Config} {r k : Nat} (hfits : c.videoBase.toNat + c.videoSize ≤ 65536)
    (hk : k < 38) (hsize : 38 * r + k < c.videoSize) :
    xlate c (c.videoBase + BitVec.ofNat 16 (38 * r + k)) =
      c.videoBase + c.videoBias - 2#16 + BitVec.ofNat 16 (40 * r + k) := by
  rw [xlate, videoRow_of_offset hk (by omega), Config.videoGap]
  bv_omega

/-- A translated address is an unwrapped offset of a row's visible byte. -/
theorem exists_stride_of_inVideoRegion {c : Config} {v : Addr}
    (hfits : c.videoBase.toNat + c.videoSize ≤ 65536)
    (hspan : 40 * ((c.videoSize - 1) / 38) + 38 ≤ 65536) (h : inVideoRegion c v = true) :
    ∃ r k, k < 38 ∧ 40 * r + k < 65536 ∧ v = c.videoBase + BitVec.ofNat 16 (38 * r + k) ∧
      xlate c v = c.videoBase + c.videoBias - 2#16 + BitVec.ofNat 16 (40 * r + k) := by
  obtain ⟨r, k, hk, hsize, rfl⟩ := exists_row_column_of_inVideoRegion h
  exact ⟨r, k, hk, by omega, rfl, xlate_row_column hfits hk hsize⟩

/-! ### The demux (43_video_demux R220) -/

theorem State.routeVideo_of_inVideoRegion {a : Addr} {s : State}
    (h : inVideoRegion s.cfg a = true) : s.routeVideo a = .ok (xlate s.cfg a) s := if_pos h

theorem State.routeVideo_of_not_inVideoRegion {a : Addr} {s : State}
    (h : inVideoRegion s.cfg a = false) : s.routeVideo a = .stop (s.raise .badVideoAddr) := by
  simp [State.routeVideo, h]

/-- The INITIALISED check of a host that is not denied passes after INIT. -/
theorem State.requireInit_of_not_denied {s : State} (hd : ¬ HostDenied s)
    (hinit : s.initialised = true) : s.requireInit = .ok () s.others.spend := by
  rcases s.requireInit_cases with ⟨hdenied, -⟩ | ⟨hnot, -⟩ | ⟨-, hr⟩
  · exact absurd hdenied hd
  · rw [hinit] at hnot; cases hnot
  · exact hr

/-- Inside VR a video access goes on, in whatever state, at the translated address. -/
theorem requireInit_routeVideo {α : Type} {a : Addr} {s : State} (f : Addr → State → Result α)
    (h : inVideoRegion s.cfg a = true) :
    (s.requireInit.bind fun _ u => (u.routeVideo a).bind f) =
      s.requireInit.bind fun _ u => f (xlate s.cfg a) u := by
  have hroute : s.others.spend.routeVideo a = .ok (xlate s.cfg a) s.others.spend := by
    simpa using State.routeVideo_of_inVideoRegion (s := s.others.spend) (by simpa using h)
  rcases s.requireInit_cases with ⟨-, hr⟩ | ⟨-, hr⟩ | ⟨-, hr⟩ <;> rw [hr]
  · rfl
  · rfl
  · rw [Result.bind_ok, hroute, Result.bind_ok, Result.bind_ok]

/-- `VWRB` is `WRB` at the translated address. -/
theorem exec_vwrb_eq_wrb {a : Addr} {s : State} (d : Byte) (h : inVideoRegion s.cfg a = true) :
    exec (.vwrb a d) s = exec (.wrb (xlate s.cfg a) d) s :=
  congrArg Result.finish (requireInit_routeVideo (fun p u => u.writeCycle p d) h)

/-- `VRDB` is `RDB` at the translated address. -/
theorem exec_vrdb_eq_rdb {a : Addr} {s : State} (h : inVideoRegion s.cfg a = true) :
    exec (.vrdb a) s = exec (.rdb (xlate s.cfg a)) s :=
  congrArg Result.finish (requireInit_routeVideo
    (fun p u => (u.readCycle p).bind fun b u => .ok () (u.setQ (zext16 b))) h)

/-- `VXL` writes the translated address to Q. -/
theorem exec_vxl_of_inVideoRegion {a : Addr} {s : State} (hs : HostServed s)
    (hinit : s.initialised = true) (h : inVideoRegion s.cfg a = true) :
    exec (.vxl a) s = .next (s.others.setQ (xlate s.cfg a)).complete := by
  change (s.requireInit.bind fun _ u => (u.routeVideo a).bind fun p u => .ok () (u.setQ p)).finish = _
  rw [requireInit_routeVideo _ h, State.requireInit_ok hs hinit]
  rfl

/-- Outside VR a video access stops at the check of its operand, before any cycle looks at the bus. -/
theorem requireInit_routeVideo_stop {α : Type} {a : Addr} {s : State} (f : Addr → State → Result α)
    (hd : ¬ HostDenied s) (hinit : s.initialised = true) (h : inVideoRegion s.cfg a = false) :
    (s.requireInit.bind fun _ u => (u.routeVideo a).bind f) =
      .stop (s.others.spend.raise .badVideoAddr) := by
  rw [State.requireInit_of_not_denied hd hinit, Result.bind_ok,
    State.routeVideo_of_not_inVideoRegion (by simpa using h), Result.bind_stop]

end Sys2Proof.Machine

namespace Sys2Proof.Safety

open Sys2Proof.Machine

/-- Settles O15: the operand is looked at after the INITIALISED check and before any cycle. -/
theorem videoCommandOutsideRegionFaults : Obligations.VideoCommandOutsideRegionFaults := by
  intro s a d hd hinit houtside
  have stop : ∀ f : Addr → State → Result Unit,
      (s.requireInit.bind fun _ u => (u.routeVideo a).bind f).finish =
        .next (s.others.spend.raise .badVideoAddr) := fun f =>
    congrArg Result.finish
      (requireInit_routeVideo_stop f hd hinit (inVideoRegion_eq_false_iff.2 houtside))
  exact ⟨stop _, stop _, stop _⟩

/-- Settles O36: one boundary, then the write of Q. -/
theorem vxlTranslatesModulo65536 : Obligations.VxlTranslatesModulo65536 := by
  intro s a hs hinit hlow hhigh
  refine ⟨_, exec_vxl_of_inVideoRegion hs hinit (inVideoRegion_eq_true_iff.2 ⟨hlow, hhigh⟩),
    ⟨?counted, ?fault⟩, toNat_xlate s.cfg a, s.others_hostLog⟩
  case counted => simp [State.complete]
  case fault => simp [State.complete]

/-- Settles O37: it is WRB at the translated address. -/
theorem vwrbStoresAtTranslatedAddress : Obligations.VwrbStoresAtTranslatedAddress := by
  intro s a p d h hlow hhigh hp
  rw [exec_vwrb_eq_wrb d (inVideoRegion_eq_true_iff.2 ⟨hlow, hhigh⟩), ← eq_xlate_of_toNat hp]
  obtain ⟨t, hrun, hdone, hbytes, hlog, -⟩ := wrbStoresItsByte s p d h
  exact ⟨t, hrun, hdone, hbytes, hlog⟩

/-- Settles O38: it is RDB at the translated address. -/
theorem vrdbReadsTranslatedAddress : Obligations.VrdbReadsTranslatedAddress := by
  intro s a p h hlow hhigh hp
  rw [exec_vrdb_eq_rdb (inVideoRegion_eq_true_iff.2 ⟨hlow, hhigh⟩), ← eq_xlate_of_toNat hp]
  obtain ⟨t, v, hrun, hdone, hvalue, hq, -, hlog, -⟩ := rdbReadsItsByte s p h
  exact ⟨t, v, hrun, hdone, hvalue, hq, hlog⟩

/-- Settles O39: a row is 38 virtual and 40 physical bytes, so an unwrapped physical offset gives back its
row and column, and columns 38 and 39 come from none. -/
theorem videoMapHasStrideFortyAndGaps : Obligations.VideoMapHasStrideFortyAndGaps := by
  intro c hfits _
  refine ⟨fun r k hk hsize => xlate_row_column hfits hk hsize, fun hspan =>
    ⟨fun v w hv hw heq => ?injective, fun v r g hv hg hoffset heq => ?gap⟩⟩
  case injective =>
    obtain ⟨r, k, hk, hrk, rfl, hxv⟩ := exists_stride_of_inVideoRegion hfits hspan hv
    obtain ⟨r', k', hk', hrk', rfl, hxw⟩ := exists_stride_of_inVideoRegion hfits hspan hw
    rw [hxv, hxw] at heq
    have hsame := addr_add_ofNat_inj hrk hrk' heq
    obtain ⟨rfl, rfl⟩ : r = r' ∧ k = k' := by omega
    rfl
  case gap =>
    obtain ⟨r', k, hk, hrk, -, hxv⟩ := exists_stride_of_inVideoRegion hfits hspan hv
    rw [hxv] at heq
    have hsame := addr_add_ofNat_inj hrk hoffset heq
    omega

end Sys2Proof.Safety
end

section
namespace Sys2Proof.Machine

open Sys2Proof.Safety

/-! ### What a command keeps at every point -/

/-- What neither the other agents, nor the count of the host's share, nor a raise, nor the count of
CPOS undoes. -/
structure Kept (P : State → Prop) : Prop where
  others : ∀ u, P u → P u.others
  spend : ∀ u, P u → P u.spend
  raise : ∀ c u, P u → P (u.raise c)
  complete : ∀ u, P u → P u.complete

section

variable {P : State → Prop} {s t : State}

theorem Kept.turn (hP : Kept P) (h : P s) : s.turn.Holds P := State.turn_holds hP.others hP.spend h

theorem Kept.runMicros {fs : List (State → State)} (hP : Kept P)
    (hfs : ∀ f ∈ fs, ∀ u, P u → P (f u)) (h : P s) : (State.runMicros fs s).Holds P :=
  State.runMicros_induct hP.others hP.spend fs hfs h

theorem Kept.requireInit (hP : Kept P) (h : P s) : s.requireInit.Holds P := by
  have hnext := hP.spend _ (hP.others s h)
  rcases s.requireInit_cases with ⟨-, hr⟩ | ⟨-, hr⟩ | ⟨-, hr⟩ <;> rw [hr]
  · exact hP.others s h
  · exact hP.raise _ _ hnext
  · exact hnext

theorem Kept.writeCycle {a : Addr} {v : Byte} (hP : Kept P)
    (hcycle : ∀ u, u.cfg = s.cfg → u.linkCheck = none → P u → P (u.writeEffect a v)) (h : P s) :
    (s.writeCycle a v).Holds P := by
  have hnext := hP.spend _ (hP.others s h)
  rcases s.writeCycle_cases a v with ⟨-, hr⟩ | ⟨c, -, hr⟩ | ⟨hnone, hr⟩ <;> rw [hr]
  · exact hP.others s h
  · exact hP.raise c _ hnext
  · exact hcycle _ (by simp) (by simpa using hnone) hnext

theorem Kept.readCycle {a : Addr} (hP : Kept P)
    (hcycle : ∀ u, u.linkCheck = none → P u → P (u.readEffect a)) (h : P s) :
    (s.readCycle a).Holds P := by
  have hnext := hP.spend _ (hP.others s h)
  rcases s.readCycle_cases a with ⟨-, hr⟩ | ⟨c, -, hr⟩ | ⟨hnone, hr⟩ <;> rw [hr]
  · exact hP.others s h
  · exact hP.raise c _ hnext
  · exact hcycle _ (by simpa using hnone) hnext

theorem Kept.writeBytes {ws : List (Addr × Byte)} (hP : Kept P)
    (hcycle : ∀ p ∈ ws, ∀ u, u.linkCheck = none → P u → P (u.writeEffect p.1 p.2)) (h : P s) :
    (State.writeBytes ws s).Holds P := by
  induction ws generalizing s with
  | nil => exact h
  | cons p rest ih =>
    exact (hP.writeCycle (fun u _ => hcycle p (by simp) u) h).bind fun _ u hu =>
      ih (fun q hq => hcycle q (by simp [hq])) hu

theorem Kept.readString {n : Nat} {a : Addr} {got : List Byte} (hP : Kept P)
    (hcycle : ∀ a u, u.linkCheck = none → P u → P (u.readEffect a))
    (hstring : ∀ buf b u, P u → P (u.setString buf b)) (h : P s) :
    (State.readString n a got s).Holds P := by
  induction n generalizing a got s with
  | zero => exact hstring _ _ s h
  | succ n ih =>
    refine (hP.readCycle (hcycle a) h).bind fun b u hu => ?_
    split
    · exact hstring _ _ u hu
    · exact ih (hstring _ _ u hu)

theorem Kept.routeVideo {a : Addr} (hP : Kept P) (h : P s) : (s.routeVideo a).Holds P := by
  cases hvr : inVideoRegion s.cfg a with
  | true => rwa [State.routeVideo_of_inVideoRegion hvr]
  | false => rw [State.routeVideo_of_not_inVideoRegion hvr]; exact hP.raise _ s h

theorem Kept.finish {r : Result Unit} (hP : Kept P) (h : r.Holds P) (hr : r.finish = .next t) :
    P t := by
  obtain ⟨w, hw, rfl | ⟨u, rfl, rfl⟩⟩ := r.finish_next <;> rw [hr] at hw <;> cases hw
  · exact h
  · exact hP.complete u h

theorem Kept.pause {r : Result Unit} (h : r.Holds P) (hr : r.pause = .next t) : P t := by
  cases r <;> cases hr <;> exact h

end

/-! ### A list of micro-steps -/

/-- The state a list of micro-steps leaves where the host is given every one. -/
def State.runGiven : List (State → State) → State → State
  | [], s => s
  | f :: fs, s => State.runGiven fs (f s.others.spend)

@[simp] theorem State.runGiven_nil (s : State) : State.runGiven [] s = s := rfl

@[simp] theorem State.runGiven_cons (f : State → State) (fs : List (State → State)) (s : State) :
    State.runGiven (f :: fs) s = State.runGiven fs (f s.others.spend) := rfl

theorem State.runGiven_append (fs gs : List (State → State)) (s : State) :
    State.runGiven (fs ++ gs) s = State.runGiven gs (State.runGiven fs s) := by
  induction fs generalizing s with
  | nil => rfl
  | cons f fs ih => exact ih _

/-- A list of micro-steps runs to its end, or ends with the host denied. -/
theorem State.runMicros_cases (fs : List (State → State)) (s : State) :
    (∃ t, State.runMicros fs s = .stop t ∧ HostDenied t) ∨
      State.runMicros fs s = .ok () (State.runGiven fs s) := by
  induction fs generalizing s with
  | nil => exact .inr rfl
  | cons f fs ih =>
    rcases s.turn_cases with ⟨hdenied, ht⟩ | ⟨-, ht⟩ <;> rw [State.runMicros_cons, ht]
    · exact .inl ⟨s.others, rfl, (State.others_hostShare s).trans hdenied⟩
    · exact ih _

/-- What a turn and every micro-step of a list keep holds where the list ends. -/
theorem State.runGiven_induct {P : State → Prop} (others : ∀ u, P u → P u.others)
    (spend : ∀ u, P u → P u.spend) {fs : List (State → State)}
    (micro : ∀ f ∈ fs, ∀ u, P u → P (f u)) {s : State} (h : P s) : P (State.runGiven fs s) := by
  induction fs generalizing s with
  | nil => exact h
  | cons f fs ih =>
    exact ih (fun g hg => micro g (by simp [hg]))
      (micro f (by simp) _ (spend _ (others s h)))

theorem Kept.runGiven {P : State → Prop} {fs : List (State → State)} {s : State} (hP : Kept P)
    (hfs : ∀ f ∈ fs, ∀ u, P u → P (f u)) (h : P s) : P (State.runGiven fs s) :=
  State.runGiven_induct hP.others hP.spend hfs h

end Sys2Proof.Machine
end

section
namespace Sys2Proof.Machine

open Sys2Proof.Safety

/-! ### The events of a list of micro-steps -/

/-- From a state whose ARCH is `x` and whose SPEED is `y` the micro-steps `fs` add the events `es`,
where no other agent moves, and leave the schedule and the share alone. -/
inductive Script : Arch → Speed → List (State → State) → List Event → Prop
  | nil {x y} : Script x y [] []
  | flag {x y fs es} (f v) (h : Script x y fs es) : Script x y (State.setFlag f v :: fs) es
  | runstate {x y fs es} (v) (h : Script x y fs es) : Script x y (State.setRunstate v :: fs) es
  | phase {x y fs es} (v) (h : Script x y fs es) : Script x y (State.setArbPhase v :: fs) es
  | wire {x y fs es} (w v) (h : Script x y fs es) : Script x y (State.setWire w v :: fs) es
  | setting {x y fs es} (i v) (h : Script x y fs es) : Script x y (State.setSetting i v :: fs) es
  | arch {x y fs es} (z) (h : Script z y fs es) : Script x y (State.setArch z :: fs) es
  | speed {x y fs es} (z) (h : Script x z fs es) : Script x y (State.setSpeed z :: fs) es
  | emit {x y fs es} (e) (h : Script x y fs es) : Script x y (State.emit e :: fs) (e :: es)
  | drive {x y fs es} (l v) (h : Script x y fs es) :
      Script x y (State.drive l v :: fs) (.line l v :: es)
  | delay {x y fs es} (t) (h : Script x y fs es) : Script x y (State.delay t :: fs) (.delay t :: es)
  | mirrorArch {x y fs es} (h : Script x y fs es) :
      Script x y (State.mirrorArch :: fs) (.line .archsel (archLevel x) :: es)
  | mirrorSpeed {x y fs es} (h : Script x y fs es) :
      Script x y (State.mirrorSpeed :: fs) (.line .speedsel (speedLevel y) :: es)

theorem inOrder_hostLog {es ev : List Event} (h : InOrder es ev) : hostLog ev = hostLog es := by
  induction es generalizing ev with
  | nil => exact h
  | cons e es ih =>
    obtain ⟨before, rest, rfl, hbefore, hrest⟩ := h
    rw [hostLog_append, hbefore, List.nil_append, ← List.singleton_append, hostLog_append,
      ← List.singleton_append (l := es), hostLog_append, ih hrest]

/-- Since `s` the host has emitted `es`, in this order, and other agents what they did between; with
no move of theirs `es` is all there is. -/
def Logged (s : State) (es : List Event) (u : State) : Prop :=
  ∃ ev, u.hist = s.hist ++ ev ∧ InOrder es ev ∧ (NoMoves s → ev = es ∧ NoMoves u)

theorem Logged.start (s : State) : Logged s [] s := ⟨[], by simp, rfl, fun h => ⟨rfl, h⟩⟩

section

variable {s u v : State} {es : List Event}

theorem Logged.hostLog (h : Logged s es u) : hostLog u.hist = hostLog s.hist ++ hostLog es := by
  obtain ⟨ev, hhist, horder, -⟩ := h
  rw [hhist, hostLog_append, inOrder_hostLog horder]

theorem Logged.others (h : Logged s es u) : Logged s es u.others := by
  obtain ⟨ev, hhist, horder, hquiet⟩ := h
  obtain ⟨new, hnew, hsilent, -⟩ := u.others_hist
  refine ⟨ev ++ new, by rw [hnew, hhist, List.append_assoc], ?_, fun hs => ?_⟩
  · simpa using inOrder_append horder (show InOrder [] new from hsilent)
  · obtain ⟨rfl, hu⟩ := hquiet hs
    rw [State.others_of_noMoves hu] at hnew ⊢
    have hnil : new = [] := by simpa using hnew.symm
    exact ⟨by simp [hnil], hu⟩

theorem Logged.append {fs : List Event} (h : Logged s es u) (hhist : v.hist = u.hist ++ fs)
    (hsched : v.schedule = u.schedule) (hend : v.endless = u.endless) (horder : InOrder fs fs) :
    Logged s (es ++ fs) v := by
  obtain ⟨ev, hu, hev, hquiet⟩ := h
  refine ⟨ev ++ fs, by rw [hhist, hu, List.append_assoc], inOrder_append hev horder, fun hs => ?_⟩
  obtain ⟨rfl, hsu, heu⟩ := hquiet hs
  exact ⟨rfl, hsched.trans hsu, hend.trans heu⟩

/-- A host served after every boundary runs `fs` from `u` to its end, where its log since `s` is
`es`. -/
def RunsLogged (s : State) (es : List Event) (fs : List (State → State)) (u : State) : Prop :=
  State.runMicros fs u = .ok () (State.runGiven fs u) ∧ HostServed (State.runGiven fs u) ∧
    Logged s es (State.runGiven fs u)

/-- One more micro-step in front, which adds the events `new`. -/
theorem RunsLogged.cons {f : State → State} {fs : List (State → State)} {new rest : List Event}
    (hserved : HostServed u) (h : Logged s es u) (horder : InOrder new new)
    (hf : ∀ w : State, w.arch = u.arch → w.speed = u.speed → (f w).hist = w.hist ++ new ∧
      (f w).schedule = w.schedule ∧ (f w).endless = w.endless ∧ (f w).hostShare = w.hostShare)
    (hrest : HostServed (f u.others) → Logged s (es ++ new) (f u.others) →
      RunsLogged s (es ++ new ++ rest) fs (f u.others)) :
    RunsLogged s (es ++ (new ++ rest)) (f :: fs) u := by
  have hothers : HostServed u.others := (State.others_hostShare u).trans hserved
  obtain ⟨hhist, hsched, hend, hshare⟩ := hf u.others (by simp) (by simp)
  have hrun := hrest (hshare.trans hothers) (h.others.append hhist hsched hend horder)
  rw [List.append_assoc] at hrun
  rw [RunsLogged, State.runGiven_cons, State.spend_of_served hothers, State.runMicros_cons,
    State.turn_of_served hserved]
  exact hrun

/-- A served host that runs a list adds its script to the log. -/
theorem Script.run {x : Arch} {y : Speed} {fs : List (State → State)} {new : List Event}
    (hscript : Script x y fs new) (hx : u.arch = x) (hy : u.speed = y) (hserved : HostServed u)
    (h : Logged s es u) : RunsLogged s (es ++ new) fs u := by
  induction hscript generalizing u es with
  | nil => exact ⟨rfl, hserved, by simpa using h⟩
  | flag _ _ _ ih | wire _ _ _ ih | setting _ _ _ ih | runstate _ _ ih | phase _ _ ih
  | arch _ _ ih | speed _ _ ih =>
    exact .cons (new := []) hserved h rfl (by simp) (ih (by simp [hx]) (by simp [hy]))
  | emit e _ ih | delay t _ ih | drive _ _ _ ih =>
    exact .cons (new := [_]) hserved h (inOrder_singleton _) (by simp)
      (ih (by simp [hx]) (by simp [hy]))
  | mirrorArch _ ih | mirrorSpeed _ ih =>
    exact .cons (new := [_]) hserved h (inOrder_singleton _)
      (fun w hwx hwy => by simp [hwx, hwy, hx, hy]) (ih (by simp [hx]) (by simp [hy]))

/-- The micro-steps of a script count no command and raise no fault. -/
theorem Script.uncounted {x : Arch} {y : Speed} {fs : List (State → State)} {es : List Event}
    (h : Script x y fs es) (u : State) :
    (State.runGiven fs u).cpos = u.cpos ∧ (State.runGiven fs u).fault = u.fault := by
  induction h generalizing u with
  | nil => exact ⟨rfl, rfl⟩
  | _ => simp [*]

/-- With its host served and no other agent to move, a script is its micro-steps in a row. -/
theorem Script.runGiven_of_noMoves {x : Arch} {y : Speed} {fs : List (State → State)}
    {es : List Event} (h : Script x y fs es) (hserved : HostServed s) (hquiet : NoMoves s) :
    State.runGiven fs s = State.atomic fs s := by
  induction h generalizing s with
  | nil => rfl
  | flag _ _ _ ih | wire _ _ _ ih | setting _ _ _ ih | drive _ _ _ ih | runstate _ _ ih
  | phase _ _ ih | arch _ _ ih | speed _ _ ih | emit _ _ ih | delay _ _ ih | mirrorArch _ ih
  | mirrorSpeed _ ih =>
    rw [State.runGiven_cons, State.others_of_noMoves hquiet, State.spend_of_served hserved]
    exact ih (by simpa [HostServed] using hserved) (by simpa [NoMoves] using hquiet)

/-- A command that is the INITIALISED check and a list of micro-steps, with its host served. -/
theorem Script.exec {i : Instr} {x : Arch} {y : Speed} {fs : List (State → State)}
    {new : List Event} (hscript : Script x y fs new) (hx : s.arch = x) (hy : s.speed = y)
    (hi : exec i s = (s.requireInit.bind fun _ u => State.runMicros fs u).finish)
    (hserved : HostServed s) (hinit : s.initialised = true) :
    exec i s = .next (State.runGiven fs s.others).complete ∧
      Completed s (State.runGiven fs s.others).complete ∧
      Safety.hostLog (State.runGiven fs s.others).hist = Safety.hostLog s.hist ++ Safety.hostLog new := by
  obtain ⟨hrun, -, hlog⟩ := hscript.run (u := s.others) (by simpa using hx) (by simpa using hy)
    ((State.others_hostShare s).trans hserved) (Logged.start s).others
  obtain ⟨hcpos, hfault⟩ := hscript.uncounted s.others
  refine ⟨?run, ⟨?counted, ?fault⟩, hlog.hostLog⟩
  case run => rw [hi, State.requireInit_ok hserved hinit, Result.bind_ok, hrun, Result.finish_ok]
  case counted => simp [State.complete, hcpos]
  case fault => simp [hfault]

end
end Sys2Proof.Machine
end

section
namespace Sys2Proof.Safety

open Sys2Proof.Machine

/-! ### The scripts of HRST, RUN, STOP, SARCH and SSPD -/

theorem sarchSteps_script (x z : Arch) (y : Speed) :
    Script z y (sarchSteps x) [.setW .architecture x.code, .line .archsel (archLevel x)] :=
  .arch x <| .setting .architecture x.code <| .emit _ <| .drive .archsel (archLevel x) .nil

theorem sspdSteps_script (x z : Speed) (y : Arch) :
    Script y z (sspdSteps x) [.setW .speed x.code, .line .speedsel (speedLevel x)] :=
  .speed x <| .setting .speed x.code <| .emit _ <| .drive .speedsel (speedLevel x) .nil

theorem stopSteps_script (x : Arch) (y : Speed) :
    Script x y stopSteps
      [.line .reset true, .line .busen false, .delay .stopSettle, .line .reset false] :=
  .flag .tickArmed false <| .drive .reset true <| .drive .busen false <| .delay .stopSettle <|
    .drive .reset false <| .runstate .halted .nil

theorem guestPulseSteps_script {x z : Arch} {y : Speed} {fs : List (State → State)}
    {es : List Event} (h : Script z y fs es) :
    Script z y (guestPulseSteps x ++ fs) (guestPulseEvents x ++ es) :=
  .drive .archsel (archLevel x) <| .drive .reset true <| .drive .busen true <|
    .delay .hrRunPulse <| .drive .busen false <| .delay .hrResetSettle <| .drive .reset false h

theorem hrstSteps_script (x : Arch) (y : Speed) :
    Script x y hrstSteps ([.line .reset true, .delay .resetPulse, .line .reset false] ++
      guestPulseEvents .arch6502 ++ guestPulseEvents .archZ80 ++ [.line .archsel (archLevel x)]) :=
  .flag .tickArmed false <| .drive .reset true <| .delay .resetPulse <| .drive .reset false <|
    guestPulseSteps_script <| guestPulseSteps_script <| .mirrorArch <| .runstate .halted .nil

theorem releaseSteps_script (c : Config) (x : Arch) (y : Speed) :
    Script x y (releaseSteps c)
      [.line .reset true, .delay .resetPulse, .line .reset false, .line .busen true] := by
  have hrelease : ∀ fs, Script x y fs [] → Script x y ([State.setRunstate .running,
      State.drive .reset true, State.delay .resetPulse, State.drive .reset false,
      State.drive .busen true] ++ fs)
      [.line .reset true, .delay .resetPulse, .line .reset false, .line .busen true] :=
    fun _ h => .runstate .running <| .drive .reset true <| .delay .resetPulse <|
      .drive .reset false <| .drive .busen true h
  unfold releaseSteps
  cases c.tickBuildEnabled with
  | false => exact hrelease _ .nil
  | true => exact hrelease _ (.flag .tickArmed true .nil)

/-! ### SARCH, SSPD and HRST (44_cpu_lifecycle R250, R280 to R284) -/

/-- Settles O16: the selector is looked at after the INITIALISED check and before any micro-step. -/
theorem archSwitchWhileRunningFaults : Obligations.ArchSwitchWhileRunningFaults := by
  intro s x hd hinit hrun hx
  have hcheck : (s.others.spend.isRunning && decide (x ≠ s.others.spend.arch)) = true := by
    simp [State.isRunning, hrun, hx]
  change (s.requireInit.bind fun _ u =>
    if u.isRunning && decide (x ≠ u.arch) then _ else _).finish = _
  rw [State.requireInit_of_not_denied hd hinit, Result.bind_ok, if_pos hcheck]
  rfl

/-- Settles O46: SSPD is a script of four micro-steps. -/
theorem sspdSelectsTheSpeed : Obligations.SspdSelectsTheSpeed := by
  intro s x hserved hinit
  obtain ⟨hrun, hdone, hlog⟩ := (sspdSteps_script x s.speed s.arch).exec rfl rfl
    (i := .sspd x) rfl hserved hinit
  exact ⟨_, hrun, hdone, by simp [sspdSteps], by simp [sspdSteps], by simp [sspdSteps], hlog⟩

/-- Settles O45: past the check of its operand SARCH is a script of four micro-steps. -/
theorem sarchSelectsTheArchitecture : Obligations.SarchSelectsTheArchitecture := by
  intro s x hserved hinit hallowed
  have hcheck : (s.others.isRunning && decide (x ≠ s.others.arch)) = false := by
    rcases hallowed with h | h <;> simp [State.isRunning, h]
  have hexec : exec (.sarch x) s =
      (s.requireInit.bind fun _ u => State.runMicros (sarchSteps x) u).finish := by
    change (s.requireInit.bind fun _ u =>
      if u.isRunning && decide (x ≠ u.arch) then _ else _).finish = _
    rw [State.requireInit_ok hserved hinit, Result.bind_ok, Result.bind_ok, hcheck]
    rfl
  obtain ⟨hrun, hdone, hlog⟩ := (sarchSteps_script x s.arch s.speed).exec rfl rfl hexec hserved hinit
  exact ⟨_, hrun, hdone, by simp [sarchSteps], by simp [sarchSteps], by simp [sarchSteps], hlog⟩

/-- Settles O42: the reset pulse, each guest's sequence and the restore are one script. -/
theorem hrstResetsBothGuests : Obligations.HrstResetsBothGuests := by
  intro s hserved hinit
  obtain ⟨hrun, hdone, hlog⟩ := (hrstSteps_script s.arch s.speed).exec rfl rfl
    (i := .hrst) rfl hserved hinit
  refine ⟨_, hrun, hdone, ?_, ?_, ?_, ?_, ?_, ?log⟩
  case log => exact hlog.trans (by simp only [List.append_assoc]; rfl)
  all_goals simp [hrstSteps, guestPulseSteps]

/-! ### STOP (44_cpu_lifecycle R270) -/

/-- Since the history was `past` the tick has been disarmed and has not fired. -/
def TickSilent (past : List Event) (u : State) : Prop :=
  u.tickArmed = false ∧ ∃ after, u.hist = past ++ after ∧ Event.tickFire ∉ after

theorem TickSilent.append {past new : List Event} {u v : State} (h : TickSilent past u)
    (harm : v.tickArmed = u.tickArmed) (hhist : v.hist = u.hist ++ new)
    (hnew : Event.tickFire ∉ new) : TickSilent past v := by
  obtain ⟨hoff, after, hu, hafter⟩ := h
  exact ⟨harm.trans hoff, after ++ new, by rw [hhist, hu, List.append_assoc], by simp [hafter, hnew]⟩

theorem TickSilent.others {past : List Event} {u : State} (h : TickSilent past u) :
    TickSilent past u.others := by
  obtain ⟨new, hhist, -, -, hnew⟩ := u.others_hist
  exact h.append (by simp) hhist (hnew h.1)

/-- Settles O44: after the disarm, the first micro-step, no boundary adds a TickFire. -/
theorem stopHaltsTheGuest : Obligations.StopHaltsTheGuest := by
  intro s hserved hinit
  obtain ⟨hrun, hdone, hlog⟩ := (stopSteps_script s.arch s.speed).exec rfl rfl
    (i := .stop) rfl hserved hinit
  have hsilent : TickSilent (State.waits 2 s).hist (State.runGiven stopSteps s.others) := by
    refine State.runGiven_induct (fs := stopSteps.tail) (fun u hu => hu.others)
      (fun u hu => hu.append (new := []) (by simp) (by simp) (by simp)) ?_
      ⟨rfl, [], by simp [State.waits], by simp⟩
    simp only [stopSteps, List.tail_cons, List.forall_mem_cons]
    exact ⟨fun u hu => hu.append (by simp) (State.drive_hist .reset true u) (by simp),
      fun u hu => hu.append (by simp) (State.drive_hist .busen false u) (by simp),
      fun u hu => hu.append (by simp) (State.delay_hist .stopSettle u) (by simp),
      fun u hu => hu.append (by simp) (State.drive_hist .reset false u) (by simp),
      fun u hu => hu.append (new := []) (by simp) (by simp) (by simp), by simp⟩
  refine ⟨_, hrun, hdone, ?_, ?_, ?_, ?_, hlog, hsilent.2⟩
  all_goals simp [stopSteps]

end Sys2Proof.Safety
end

section
namespace Sys2Proof

theorem Byte.eq_zero_or_one {b : Byte} (h : b.toNat ≤ 1) : b = 0x00#8 ∨ b = 0x01#8 := by
  rcases Nat.le_one_iff_eq_zero_or_eq_one.1 h with h0 | h1
  · exact .inl (BitVec.eq_of_toNat_eq h0)
  · exact .inr (BitVec.eq_of_toNat_eq h1)

theorem Arch.exists_ofCode {b : Byte} (h : b.toNat ≤ 1) : ∃ x, Arch.ofCode b = some x := by
  rcases Byte.eq_zero_or_one h with rfl | rfl
  · exact ⟨.arch6502, rfl⟩
  · exact ⟨.archZ80, rfl⟩

theorem Speed.exists_ofCode {b : Byte} (h : b.toNat ≤ 1) : ∃ x, Speed.ofCode b = some x := by
  rcases Byte.eq_zero_or_one h with rfl | rfl
  · exact ⟨.normal, rfl⟩
  · exact ⟨.fast, rfl⟩

end Sys2Proof

namespace Sys2Proof.Safety

open Sys2Proof.Machine

/-! ### The script of INIT (44_cpu_lifecycle R240) -/

theorem loadArchSteps_script {c : Config} {b : Byte} {x : Arch} {y : Speed}
    {fs : List (State → State)} {es : List Event}
    (h : Script ((Arch.ofCode b).getD c.defaultArch) y fs es) :
    Script x y (loadArchSteps c b ++ fs)
      ((if b.toNat ≤ 1 then [] else [.setW .architecture c.defaultArch.code]) ++ es) := by
  unfold loadArchSteps
  by_cases hb : b.toNat ≤ 1
  · obtain ⟨z, hz⟩ := Arch.exists_ofCode hb
    rw [hz] at h ⊢
    rw [if_pos hb]
    exact .arch z h
  · have hz := Arch.ofCode_of_one_lt (Nat.lt_of_not_le hb)
    rw [hz] at h ⊢
    rw [if_neg hb]
    exact .setting _ _ <| .emit _ <| .arch _ h

theorem loadSpeedSteps_script {c : Config} {b : Byte} {x : Arch} {y : Speed}
    {fs : List (State → State)} {es : List Event}
    (h : Script x ((Speed.ofCode b).getD c.defaultSpeed) fs es) :
    Script x y (loadSpeedSteps c b ++ fs)
      ((if b.toNat ≤ 1 then [] else [.setW .speed c.defaultSpeed.code]) ++ es) := by
  unfold loadSpeedSteps
  by_cases hb : b.toNat ≤ 1
  · obtain ⟨z, hz⟩ := Speed.exists_ofCode hb
    rw [hz] at h ⊢
    rw [if_pos hb]
    exact .speed z h
  · have hz := Speed.ofCode_of_one_lt (Nat.lt_of_not_le hb)
    rw [hz] at h ⊢
    rw [if_neg hb]
    exact .setting _ _ <| .emit _ <| .speed _ h

theorem initFlagSteps_script (c : Config) (x : Arch) (y : Speed) :
    Script x y (initFlagSteps c) [] := by
  unfold initFlagSteps
  cases c.hasExpansion with
  | false =>
    exact .runstate _ <| .flag _ _ <| .flag _ _ <| .flag _ _ <| .phase _ <| .flag _ _ <|
      .flag _ _ <| .flag _ _ .nil
  | true =>
    exact .runstate _ <| .flag _ _ <| .flag _ _ <| .flag _ _ <| .phase _ <| .flag _ _ <|
      .flag _ _ <| .flag _ _ <| .flag _ _ .nil

theorem idleLineSteps_script {c : Config} {x : Arch} {y : Speed} {fs : List (State → State)}
    (h : Script x y fs []) :
    Script x y (idleLineSteps c ++ fs)
      ([.line .busen false, .line .reset false, .line .int false] ++
        (if c.hasExpansion then [.line .ack false] else []) ++
        [.line .archsel (archLevel x), .line .speedsel (speedLevel y)]) := by
  have hwires := Script.wire .aoe false <| .wire .rwn true <| .wire .latch false <|
    .wire .sclk false <| .wire .sdo false <| .mirrorArch <| .mirrorSpeed h
  unfold idleLineSteps
  cases c.hasExpansion with
  | false => exact .drive .busen false <| .drive .reset false <| .drive .int false hwires
  | true =>
    exact .drive .busen false <| .drive .reset false <| .drive .int false <|
      .drive .ack false hwires

/-- INIT emits what it writes back of the settings, then each recorded line at its idle level. -/
theorem initSteps_script (s : State) (x : Arch) (y : Speed) :
    Script x y (initSteps s.cfg s.setting0 s.setting1)
      (initEvents s ((Arch.ofCode s.setting0).getD s.cfg.defaultArch)
        ((Speed.ofCode s.setting1).getD s.cfg.defaultSpeed)) := by
  simp only [initSteps, initEvents, List.append_assoc]
  refine .flag .ie false <| loadArchSteps_script <| loadSpeedSteps_script ?_
  simpa only [List.append_assoc] using
    idleLineSteps_script (initFlagSteps_script s.cfg _ _)

/-! ### What INIT leaves -/

/-- What INIT's first micro-steps load (44_cpu_lifecycle R242, R243). -/
structure Loaded (s w : State) : Prop where
  arch : w.arch = (Arch.ofCode s.setting0).getD s.cfg.defaultArch
  speed : w.speed = (Speed.ofCode s.setting1).getD s.cfg.defaultSpeed
  setting0 : w.setting0 = w.arch.code
  setting1 : w.setting1 = w.speed.code
  cfg : w.cfg = s.cfg
  doorbellIe : w.doorbellIe = s.doorbellIe

theorem loaded_runGiven (s : State) :
    Loaded s (State.runGiven ([State.setFlag .ie false] ++ loadArchSteps s.cfg s.setting0 ++
      loadSpeedSteps s.cfg s.setting1) s) := by
  cases h0 : Arch.ofCode s.setting0 <;> cases h1 : Speed.ofCode s.setting1 <;> constructor <;>
    simp [loadArchSteps, loadSpeedSteps, h0, h1]
  case some.none.setting0 | some.some.setting0 => exact (Arch.code_of_ofCode h0).symm
  case none.some.setting1 | some.some.setting1 => exact (Speed.code_of_ofCode h1).symm

/-- INT stays at 0 over micro-steps that leave it there: the tick's pulse ends at 0. -/
theorem runGiven_int {fs : List (State → State)}
    (hfs : ∀ f ∈ fs, ∀ u : State, u.int = false → (f u).int = false) {s : State}
    (h : s.int = false) : (State.runGiven fs s).int = false :=
  State.runGiven_induct (P := fun u => u.int = false) (fun _ hu => State.others_int hu)
    (fun u hu => by simpa using hu) hfs h

/-- The micro-steps of INIT up to the one that drives INT, and those after it. -/
theorem initSteps_split (c : Config) (b0 b1 : Byte) : ∃ front back,
    initSteps c b0 b1 = front ++ (State.drive .int false :: back) ∧
      ∀ f ∈ back, ∀ u : State, u.int = false → (f u).int = false := by
  refine ⟨[State.setFlag .ie false] ++ loadArchSteps c b0 ++ loadSpeedSteps c b1 ++
    [State.drive .busen false, State.drive .reset false],
    (idleLineSteps c).drop 3 ++ initFlagSteps c, ?_, ?_⟩
  · simp [initSteps, idleLineSteps]
  · cases hport : c.hasExpansion <;> simp +contextual [idleLineSteps, initFlagSteps, hport]

theorem initSteps_int (c : Config) (b0 b1 : Byte) (s : State) :
    (State.runGiven (initSteps c b0 b1) s).int = false := by
  obtain ⟨front, back, hsplit, hback⟩ := initSteps_split c b0 b1
  rw [hsplit, State.runGiven_append]
  exact runGiven_int hback (by simp)

/-- The levels and registers INIT leaves (44_cpu_lifecycle R242 to R247). -/
structure InitDone (s t : State) : Prop where
  loaded : t.arch = (Arch.ofCode s.setting0).getD s.cfg.defaultArch ∧
    t.speed = (Speed.ofCode s.setting1).getD s.cfg.defaultSpeed ∧
    t.setting0 = t.arch.code ∧ t.setting1 = t.speed.code
  cfg : t.cfg = s.cfg
  status : t.runstate = .halted ∧ t.tickArmed = false ∧ t.ie = true ∧ t.initialised = true ∧
    t.doorbellIe = (s.cfg.hasExpansion || s.doorbellIe) ∧ t.arbPhase = .idle ∧
    t.arbWasRunning = false
  lines : t.archsel = archLevel t.arch ∧ t.speedsel = speedLevel t.speed ∧ t.busen = false ∧
    t.resetLine = false ∧ t.acked = false
  int : t.int = false
  wires : t.aoe = false ∧ t.rwn = true ∧ t.latch = false ∧ t.sclk = false ∧ t.sdo = false

theorem initDone_runGiven (s : State) :
    InitDone s (State.runGiven (initSteps s.cfg s.setting0 s.setting1) s) := by
  have hint := initSteps_int s.cfg s.setting0 s.setting1 s
  have hload := loaded_runGiven s
  rw [initSteps, List.append_assoc, State.runGiven_append] at hint ⊢
  generalize State.runGiven ([State.setFlag .ie false] ++ loadArchSteps s.cfg s.setting0 ++
      loadSpeedSteps s.cfg s.setting1) s = w at hload hint ⊢
  obtain ⟨harch, hspeed, h0, h1, hcfg, hdb⟩ := hload
  refine ⟨?_, ?_, ?_, ?_, hint, ?_⟩
  all_goals
    cases hport : s.cfg.hasExpansion <;>
      simp [idleLineSteps, initFlagSteps, hport, hcfg, hdb, ← harch, ← hspeed, h0, h1, State.acked]

/-- With no other agent to move INIT leaves memory alone and no doorbell behind. -/
theorem initSteps_quiet {s : State} (hserved : HostServed s) (hquiet : NoMoves s) :
    (State.runGiven (initSteps s.cfg s.setting0 s.setting1) s).mem = s.mem ∧
    (State.runGiven (initSteps s.cfg s.setting0 s.setting1) s).doorbellLatch = false ∧
    (State.runGiven (initSteps s.cfg s.setting0 s.setting1) s).dbPending = false := by
  rw [(initSteps_script s s.arch s.speed).runGiven_of_noMoves hserved hquiet]
  cases h0 : Arch.ofCode s.setting0 <;> cases h1 : Speed.ofCode s.setting1 <;>
    cases hport : s.cfg.hasExpansion <;>
      simp [initSteps, loadArchSteps, loadSpeedSteps, idleLineSteps, initFlagSteps, State.atomic,
        h0, h1, hport]

end Sys2Proof.Safety
end

section
namespace Sys2Proof.Safety

open Sys2Proof.Machine

/-! ### INIT with its host served (44_cpu_lifecycle R240 to R247) -/

/-- INIT of a host that is not denied, where it has not completed. -/
theorem exec_init_of_not_initialised {s u : State} (hd : ¬ HostDenied s)
    (hinit : s.initialised = false) (hu : u = s.others.spend) :
    exec .init s = (State.runMicros (initSteps u.cfg u.setting0 u.setting1) u).finish := by
  have huninit : u.initialised = false := by simpa [hu] using hinit
  rcases s.turn_cases with ⟨hdenied, -⟩ | ⟨-, hturn⟩
  · exact absurd hdenied hd
  · change (s.turn.bind fun _ u => if u.initialised then Result.stop (u.raise .reinit)
      else State.runMicros (initSteps u.cfg u.setting0 u.setting1) u).finish = _
    rw [hturn, Result.bind_ok, ← hu, huninit]
    rfl

theorem HostServed.not_denied {s : State} (h : HostServed s) : ¬ HostDenied s := by
  intro hd
  rw [HostDenied, h] at hd
  cases hd

/-- Of INIT's events only Line(INT,0) is not the host's alone. -/
theorem hostLog_initEvents (s : State) (x : Arch) (y : Speed) :
    hostLog (initEvents s x y) =
      (if s.setting0.toNat ≤ 1 then [] else [.setW .architecture s.cfg.defaultArch.code]) ++
      (if s.setting1.toNat ≤ 1 then [] else [.setW .speed s.cfg.defaultSpeed.code]) ++
      [.line .busen false, .line .reset false] ++
      (if s.cfg.hasExpansion then [.line .ack false] else []) ++
      [.line .archsel (archLevel x), .line .speedsel (speedLevel y)] := by
  unfold initEvents
  split_ifs <;> rfl

theorem InitDone.of_others {s t : State} (h : InitDone s.others t) : InitDone s t :=
  ⟨by simpa using h.loaded, by simpa using h.cfg, by simpa using h.status, h.lines, h.int, h.wires⟩

/-- INIT of a served host, where it has not completed, as one state before CPOS counts it. -/
theorem exec_init_served {s : State} (hserved : HostServed s) (hinit : s.initialised = false) :
    ∃ t, exec .init s = .next t.complete ∧ Completed s t.complete ∧ InitDone s t ∧
      Logged s (initEvents s t.arch t.speed) t ∧
      (NoMoves s → t.mem = s.mem ∧ t.doorbellLatch = false ∧ t.dbPending = false) := by
  have hothers : HostServed s.others := (State.others_hostShare s).trans hserved
  have hscript := initSteps_script s.others s.others.arch s.others.speed
  obtain ⟨hrun, -, hlog⟩ := hscript.run rfl rfl hothers (Logged.start s).others
  obtain ⟨hcpos, hfault⟩ := hscript.uncounted s.others
  have hdone := (initDone_runGiven s.others).of_others
  obtain ⟨harch, hspeed, -⟩ := hdone.loaded
  have hcompleted : Completed s
      (State.runGiven (initSteps s.others.cfg s.others.setting0 s.others.setting1) s.others).complete :=
    ⟨congrArg (· + 1) (hcpos.trans (State.others_cpos s)), hfault.trans (State.others_fault s)⟩
  refine ⟨_, ?run, hcompleted, hdone, ?log, fun hs => ?quiet⟩
  case run =>
    rw [exec_init_of_not_initialised hserved.not_denied hinit (State.spend_of_served hothers).symm,
      hrun, Result.finish_ok]
  case log =>
    rw [harch, hspeed]
    simpa [initEvents] using hlog
  case quiet =>
    have hsame := State.others_of_noMoves hs
    have hquiet := initSteps_quiet hothers (by rwa [hsame])
    rwa [hsame] at hquiet ⊢

/-- Settles O40: INIT is a script, so its log is the script's events; its levels are `InitDone`. -/
theorem initSetsUpTheEngine : Obligations.InitSetsUpTheEngine := by
  intro s hserved hinit
  obtain ⟨t, hexec, hcompleted, hdone, hlog, hquiet⟩ := exec_init_served hserved hinit
  obtain ⟨⟨harch, hspeed, h0, h1⟩, -, hstatus, hlines, hint, hwires⟩ := hdone
  obtain ⟨hrunstate, htick, hie, hinit', hdb, hphase, hwas⟩ := hstatus
  obtain ⟨harchsel, hspeedsel, hbusen, hreset, hacked⟩ := hlines
  obtain ⟨haoe, hrwn, hlatch, hsclk, hsdo⟩ := hwires
  refine ⟨t.complete, hexec, hcompleted, harch, hspeed, h0, h1, hrunstate, htick, hie, hinit', hdb,
    hphase, hwas, harchsel, hspeedsel, hbusen, hreset, hint, hacked, haoe, hrwn, hlatch, hsclk, hsdo,
    ?log, hquiet, ?events⟩
  case log =>
    refine hlog.hostLog.trans ?_
    rw [hostLog_initEvents]
    simp only [List.append_assoc]
    rfl
  case events =>
    obtain ⟨ev, hhist, horder, hall⟩ := hlog
    exact ⟨ev, hhist, horder, fun hs => (hall hs).1⟩

end Sys2Proof.Safety
end

section
namespace Sys2Proof.Machine

open Sys2Proof.Safety

/-! ### What the other agents' moves look at -/

/-- Two states that hold the same schedule and draws, and which every move relates again, are
related after a boundary. -/
theorem State.others_rel {R : State → State → Prop}
    (same : ∀ s t, R s t →
      t.schedule = s.schedule ∧ t.endless = s.endless ∧ t.moveDraws = s.moveDraws)
    (sched : ∀ s t l, R s t → R (s.setSchedule l) (t.setSchedule l))
    (draw : ∀ s t, R s t → R s.useMoveDraw t.useMoveDraw)
    (move : ∀ s t m, R s t → R (s.move m) (t.move m)) {s t : State} (h : R s t) :
    R s.others t.others := by
  have hmoves : ∀ (ms : List Move) (s t : State), R s t →
      R (State.moves ms s) (State.moves ms t) := by
    intro ms
    induction ms with
    | nil => exact fun _ _ h => h
    | cons m ms ih => exact fun s t h => ih _ _ (move s t m h)
  obtain ⟨hsched, hend, hdraws⟩ := same s t h
  unfold State.others
  rw [hsched, hend, hdraws]
  split
  · exact hmoves _ _ _ (sched s t _ h)
  · exact hmoves _ _ _ (draw s t h)
  · exact h

theorem State.dbellEdge_dbell (v : Bool) (s : State) : (s.dbellEdge v).dbell = v := by
  simp only [State.dbellEdge]
  split
  · split <;> simp
  · simp

/-- Two states in which the card does the same to its input lines. -/
def AgreeInputs (s t : State) : Prop :=
  SameInputs s t ∧ t.cfg.hasExpansion = s.cfg.hasExpansion ∧ t.endless = s.endless

theorem AgreeInputs.move {s t : State} (m : Move) (h : AgreeInputs s t) :
    AgreeInputs (s.move m) (t.move m) := by
  obtain ⟨⟨hsched, hdraws, hreq, hdbell⟩, hport, hend⟩ := h
  cases m with
  | cardReq v =>
    unfold State.move
    rw [State.enabled_cardReq, State.enabled_cardReq, hport, hreq]
    split <;> simp [AgreeInputs, SameInputs, State.perform, State.changeReq, *]
  | cardDbell v =>
    unfold State.move
    rw [State.enabled_cardDbell, State.enabled_cardDbell, hport, hdbell]
    split <;> simp [AgreeInputs, SameInputs, State.perform, State.dbellEdge_dbell, *]
  | _ =>
    unfold State.move
    split <;> split <;> simp [AgreeInputs, SameInputs, State.perform, State.tickHandler,  *]

theorem AgreeInputs.others {s t : State} (h : AgreeInputs s t) :
    AgreeInputs s.others t.others := by
  refine State.others_rel (R := AgreeInputs) ?_ ?_ ?_ (fun _ _ m h => h.move m) h
  · rintro s t ⟨⟨hsched, hdraws, -, -⟩, -, hend⟩
    exact ⟨hsched, hend, hdraws⟩
  · rintro s t l ⟨⟨-, hsame⟩, hrest⟩
    exact ⟨⟨rfl, hsame⟩, hrest⟩
  · rintro s t ⟨⟨hsched, hdraws, hsame⟩, hrest⟩
    exact ⟨⟨hsched, congrArg (· + 1) hdraws, hsame⟩, hrest⟩

/-- Two states in which the doorbell does the same too. -/
def AgreeDoorbell (s t : State) : Prop :=
  AgreeInputs s t ∧ t.doorbellLatch = s.doorbellLatch ∧ t.dbPending = s.dbPending ∧
  t.edgeDraws = s.edgeDraws ∧ t.cfg.maskedEdge = s.cfg.maskedEdge ∧ t.ie = s.ie ∧
  t.doorbellIe = s.doorbellIe

theorem AgreeDoorbell.move {s t : State} (m : Move) (h : AgreeDoorbell s t) :
    AgreeDoorbell (s.move m) (t.move m) := by
  obtain ⟨hinputs, hlatch, hpend, hdraws, hmask, hie, hdbie⟩ := h
  refine ⟨hinputs.move m, ?_⟩
  obtain ⟨⟨-, -, -, hdbell⟩, hport, -⟩ := hinputs
  cases m with
  | cardDbell v =>
    unfold State.move
    rw [State.enabled_cardDbell, State.enabled_cardDbell, hport, hdbell]
    split
    · simp only [State.perform, State.dbellEdge, State.emit_doorbellIe, State.setDbell_doorbellIe,
        State.emit_ie, State.setDbell_ie, hdbie, hie]
      split
      · split
        · simp [*]
        · simp only [State.maskedEdge, State.emit_cfg, State.setDbell_cfg, State.emit_edgeDraws,
            State.setDbell_edgeDraws, hmask, hdraws]
          split
          · simp [*]
          · simp [*]
          · split <;> simp [State.useEdgeDraw, *]
      · simp [*]
    · simp [*]
  | doorbellDeliver =>
    unfold State.move
    simp only [State.enabled, hpend, hie]
    split <;> simp [State.perform, State.deliverPending, *]
  | _ =>
    unfold State.move
    split <;> split <;> simp [State.perform, State.tickHandler, State.changeReq,  *]

theorem AgreeDoorbell.others {s t : State} (h : AgreeDoorbell s t) :
    AgreeDoorbell s.others t.others := by
  refine State.others_rel (R := AgreeDoorbell) ?_ ?_ ?_ (fun _ _ m h => h.move m) h
  · rintro s t ⟨⟨⟨hsched, hdraws, -, -⟩, -, hend⟩, -⟩
    exact ⟨hsched, hend, hdraws⟩
  · rintro s t l ⟨⟨⟨-, hsame⟩, hport⟩, hrest⟩
    exact ⟨⟨⟨rfl, hsame⟩, hport⟩, hrest⟩
  · rintro s t ⟨⟨⟨hsched, hdraws, hsame⟩, hport⟩, hrest⟩
    exact ⟨⟨⟨hsched, congrArg (· + 1) hdraws, hsame⟩, hport⟩, hrest⟩

end Sys2Proof.Machine
end

section
namespace Sys2Proof.Safety

open Sys2Proof.Machine

/-! ### The micro-steps of INIT (44_cpu_lifecycle R240) -/

/-- What holds of each micro-step INIT may take before the one that sets INITIALISED. -/
structure InitMicros (c : Config) (Q : (State → State) → Prop) : Prop where
  flag : ∀ f v, f ≠ .initialised → Q (State.setFlag f v)
  setting : ∀ i v, Q (State.setSetting i v)
  written : ∀ i v, Q (State.emit (.setW i v))
  arch : ∀ x, Q (State.setArch x)
  speed : ∀ x, Q (State.setSpeed x)
  line : ∀ l, l ≠ .ack → Q (State.drive l false)
  ack : c.hasExpansion = true → Q (State.drive .ack false)
  wire : ∀ w v, Q (State.setWire w v)
  mirrorArch : Q State.mirrorArch
  mirrorSpeed : Q State.mirrorSpeed
  runstate : Q (State.setRunstate .halted)
  phase : Q (State.setArbPhase .idle)

theorem InitMicros.load {c : Config} {Q : (State → State) → Prop} (hQ : InitMicros c Q)
    (b0 b1 : Byte) : ∀ f ∈ loadArchSteps c b0 ++ loadSpeedSteps c b1, Q f := by
  rw [List.forall_mem_append]
  constructor
  · unfold loadArchSteps
    split <;> simp [hQ.setting, hQ.written, hQ.arch]
  · unfold loadSpeedSteps
    split <;> simp [hQ.setting, hQ.written, hQ.speed]

theorem InitMicros.lines {c : Config} {Q : (State → State) → Prop} (hQ : InitMicros c Q) :
    ∀ f ∈ idleLineSteps c, Q f := by
  have hack := hQ.ack
  cases hport : c.hasExpansion <;>
    simp_all [idleLineSteps, hQ.line, hQ.wire, hQ.mirrorArch, hQ.mirrorSpeed]

/-- INIT sets INITIALISED last. -/
theorem initSteps_concat (c : Config) (b0 b1 : Byte) : ∃ front,
    initSteps c b0 b1 = front ++ [State.setFlag .initialised true] ∧
      ∀ Q, InitMicros c Q → ∀ f ∈ front, Q f := by
  refine ⟨[State.setFlag .ie false] ++ (loadArchSteps c b0 ++ loadSpeedSteps c b1) ++
    idleLineSteps c ++ (initFlagSteps c).dropLast, ?_, fun Q hQ => ?_⟩
  · cases hport : c.hasExpansion <;> simp [initSteps, initFlagSteps, hport]
  · simp only [List.forall_mem_append]
    refine ⟨⟨⟨by simp [hQ.flag], List.forall_mem_append.1 (hQ.load b0 b1)⟩, hQ.lines⟩, ?_⟩
    cases hport : c.hasExpansion <;>
      simp [initFlagSteps, hport, hQ.flag, hQ.runstate, hQ.phase]

theorem InitMicros.forall_mem {c : Config} {Q : (State → State) → Prop} (hQ : InitMicros c Q)
    (last : Q (State.setFlag .initialised true)) (b0 b1 : Byte) :
    ∀ f ∈ initSteps c b0 b1, Q f := by
  obtain ⟨front, heq, hfront⟩ := initSteps_concat c b0 b1
  rw [heq, List.forall_mem_append]
  exact ⟨hfront Q hQ, by simpa using last⟩

/-! ### What each command keeps -/

section

variable {P : State → Prop} {s t : State}

theorem exec_init_keeps (hP : Kept P)
    (hmicro : ∀ w, P w → ∀ f ∈ initSteps w.cfg w.setting0 w.setting1, ∀ u, P u → P (f u))
    (h : P s) (hexec : exec .init s = .next t) : P t := by
  refine hP.finish ((hP.turn h).bind fun _ u hu => ?_) hexec
  split
  · exact hP.raise _ u hu
  · exact hP.runMicros (hmicro u hu) hu

theorem exec_hrst_keeps (hP : Kept P) (hmicro : ∀ f ∈ hrstSteps, ∀ u, P u → P (f u))
    (h : P s) (hexec : exec .hrst s = .next t) : P t :=
  hP.finish ((hP.requireInit h).bind fun _ _ hu => hP.runMicros hmicro hu) hexec

theorem exec_stop_keeps (hP : Kept P) (hmicro : ∀ f ∈ stopSteps, ∀ u, P u → P (f u))
    (h : P s) (hexec : exec .stop s = .next t) : P t :=
  hP.finish ((hP.requireInit h).bind fun _ _ hu => hP.runMicros hmicro hu) hexec

theorem exec_sspd_keeps {x : Speed} (hP : Kept P) (hmicro : ∀ f ∈ sspdSteps x, ∀ u, P u → P (f u))
    (h : P s) (hexec : exec (.sspd x) s = .next t) : P t :=
  hP.finish ((hP.requireInit h).bind fun _ _ hu => hP.runMicros hmicro hu) hexec

theorem exec_sarch_keeps {x : Arch} (hP : Kept P) (hmicro : ∀ f ∈ sarchSteps x, ∀ u, P u → P (f u))
    (h : P s) (hexec : exec (.sarch x) s = .next t) : P t := by
  refine hP.finish ((hP.requireInit h).bind fun _ u hu => ?_) hexec
  split
  · exact hP.raise _ u hu
  · exact hP.runMicros hmicro hu

theorem exec_run_keeps (hP : Kept P)
    (hcycle : ∀ p ∈ bootBytes s.cfg s.arch, ∀ u, u.linkCheck = none → P u → P (u.writeEffect p.1 p.2))
    (hmicro : ∀ c, ∀ f ∈ releaseSteps c, ∀ u, P u → P (f u)) (h : P s)
    (hexec : exec .run s = .next t) : P t := by
  refine hP.finish (r := s.requireInit.bind fun _ u => (State.writeBytes (bootBytes u.cfg u.arch) u).bind
    fun _ w => State.runMicros (releaseSteps w.cfg) w) ?_ hexec
  have hrelease : ∀ (x : Unit) w, P w → (State.runMicros (releaseSteps w.cfg) w).Holds P :=
    fun _ w hw => hP.runMicros (hmicro w.cfg) hw
  have hchecked := hP.requireInit h
  rcases s.requireInit_cases with ⟨-, hr⟩ | ⟨-, hr⟩ | ⟨-, hr⟩ <;> rw [hr] at hchecked ⊢
  · exact hchecked
  · exact hchecked
  · rw [Result.bind_ok]
    exact (hP.writeBytes (by simpa using hcycle) hchecked).bind hrelease

/-- The micro-steps of POLL, wherever it stands (45_expansion_arbiter). -/
structure PollKeeps (P : State → Prop) : Prop where
  wasRunning : ∀ v u, P u → P (State.setFlag .arbWasRunning v u)
  latch : ∀ u, P u → P (State.setFlag .doorbellLatch false u)
  phase : ∀ v u, P u → P (State.setArbPhase v u)
  line : ∀ l v u, l = .busen ∨ l = .ack ∨ l = .int → P u → P (State.drive l v u)
  pulse : ∀ u, P u → P (State.emit (.intPulse .doorbell) u)
  cycle : ∀ u : State, u.linkCheck = none → P u → P (u.writeEffect u.cfg.mbxExpFlag Config.expFlagValue)

theorem PollKeeps.deliverDoorbell (hpoll : PollKeeps P) (hP : Kept P) (h : P s) :
    s.deliverDoorbell.Holds P := by
  have hline : ∀ l v u, l = Line.busen ∨ l = .ack ∨ l = .int → P u → P (State.drive l v u) :=
    hpoll.line
  refine (hP.runMicros ?_ h).bind fun _ u hu =>
    (hP.writeCycle (fun w hcfg => ?_) hu).bind fun _ w hw => hP.runMicros ?_ hw
  · simpa using fun u => hline .busen false u (by simp)
  · rw [← hcfg]; exact hpoll.cycle w
  · simp only [List.forall_mem_cons]
    exact ⟨fun u => hline .busen true u (by simp), fun u => hline .int true u (by simp),
      fun u => hline .int false u (by simp), hpoll.pulse, by simp⟩

theorem PollKeeps.serviceDoorbell (hpoll : PollKeeps P) (hP : Kept P) (h : P s) :
    s.serviceDoorbell.Holds P := by
  refine (hP.turn h).bind fun _ u hu => ?_
  split
  · refine Result.Holds.bind (P := P) ?_ fun _ w hw => hP.runMicros (by simpa using hpoll.latch) hw
    split
    · exact hpoll.deliverDoorbell hP hu
    · exact hu
  · exact hu

theorem PollKeeps.entry (hpoll : PollKeeps P) (w : Bool) :
    ∀ f ∈ handshakeEntrySteps w, ∀ u, P u → P (f u) := by
  have hack := fun u => hpoll.line .ack true u (by simp)
  have hbusen := fun u => hpoll.line .busen false u (by simp)
  have hwas := hpoll.wasRunning w
  have hphase := hpoll.phase .acked
  cases w <;> simp_all [handshakeEntrySteps]

theorem PollKeeps.exit (hpoll : PollKeeps P) (w : Bool) :
    ∀ f ∈ handshakeExitSteps w, ∀ u, P u → P (f u) := by
  have hack := fun u => hpoll.line .ack false u (by simp)
  have hbusen := fun u => hpoll.line .busen true u (by simp)
  have hwas := hpoll.wasRunning false
  have hphase := hpoll.phase .idle
  cases w <;> simp_all [handshakeExitSteps]

theorem exec_poll_keeps (hpoll : PollKeeps P) (hP : Kept P) (h : P s)
    (hexec : exec .poll s = .next t) : P t := by
  change execPoll s = .next t at hexec
  unfold execPoll at hexec
  split at hexec
  · simp only [State.resumeHandshake] at hexec
    split at hexec
    · cases hexec
      exact hP.others s h
    · refine hP.finish (Result.Holds.bind (P := P) ?_ fun _ u hu =>
        (hP.runMicros (hpoll.exit _) hu).bind fun _ w hw => hpoll.serviceDoorbell hP hw) hexec
      exact hP.turn h
  · have hchecked := hP.requireInit h
    split at hexec
    · next u hu =>
      cases hexec
      rwa [hu] at hchecked
    · next u hu =>
      rw [hu] at hchecked
      split at hexec
      · have hturn := hP.turn hchecked
        split at hexec
        · next w hw =>
          cases hexec
          rwa [hw] at hturn
        · next w hw =>
          rw [hw] at hturn
          split at hexec
          · exact Kept.pause (hP.runMicros (hpoll.entry _) hturn) hexec
          · exact hP.finish (hpoll.serviceDoorbell hP hturn) hexec
      · cases hexec
        exact hP.complete u hchecked

end

/-- Every command of the link, the facade and the video demux keeps what its cycles keep. -/
theorem exec_cycles_keeps {P : State → Prop} {i : Instr} {s t : State} (hP : Kept P)
    (hwrite : ∀ a v u, P u → P (u.writeEffect a v)) (hread : ∀ a u, P u → P (u.readEffect a))
    (hq : ∀ v u, P u → P (u.setQ v)) (hstring : ∀ buf b u, P u → P (u.setString buf b))
    (hi : isStore i = true ∨ isRead i = true) (h : P s) (hexec : exec i s = .next t) : P t := by
  have hbytes : ∀ ws u, P u → (State.writeBytes ws u).Holds P := fun ws u hu =>
    hP.writeBytes (fun p _ w _ => hwrite p.1 p.2 w) hu
  have hcycle : ∀ a v u, P u → (u.writeCycle a v).Holds P := fun a v u hu =>
    hP.writeCycle (fun w _ _ => hwrite a v w) hu
  have hget : ∀ a u, P u → (u.readCycle a).Holds P := fun a u hu =>
    hP.readCycle (fun w _ => hread a w) hu
  have hset : ∀ v u, P u → (Result.ok () (State.setQ v u)).Holds P := hq
  have hchecked := hP.requireInit h
  have finish : ∀ r : Result Unit, r.finish = .next t → r.Holds P → P t := fun r hr hr' =>
    hP.finish hr' hr
  cases i with
  | wrb a d => exact finish _ hexec (hchecked.bind fun _ => hcycle a d)
  | wrw a d | wrl a d | wrt a d => exact finish _ hexec (hchecked.bind fun _ => hbytes _)
  | vwrb a d =>
    exact finish _ hexec (hchecked.bind fun _ u hu => (hP.routeVideo hu).bind fun p => hcycle p d)
  | rdb a => exact finish _ hexec (hchecked.bind fun _ u hu => (hget a u hu).bind fun _ => hset _)
  | rdw a =>
    exact finish _ hexec (hchecked.bind fun _ u hu => (hget a u hu).bind fun _ w hw =>
      (hget _ w hw).bind fun _ => hset _)
  | rds a n =>
    refine finish _ hexec (hchecked.bind fun _ u hu => hP.readString (fun a w _ => hread a w) hstring ?_)
    unfold State.startString
    split
    · exact hstring _ _ u hu
    · exact hu
  | vxl a => exact finish _ hexec (hchecked.bind fun _ u hu => (hP.routeVideo hu).bind fun _ => hset _)
  | vrdb a =>
    exact finish _ hexec (hchecked.bind fun _ u hu => (hP.routeVideo hu).bind fun p w hw =>
      (hget p w hw).bind fun _ => hset _)
  | _ => simp [isStore, isRead] at hi

end Sys2Proof.Safety
end

section
namespace Sys2Proof.Safety

open Sys2Proof.Machine

/-! ### RUNSTATE (44_cpu_lifecycle R290) -/

theorem kept_runstate (Q : RunState → Prop) : Kept fun u => Q u.runstate where
  others u h := by simpa using h
  spend u h := by simpa using h
  raise c u h := by simpa using h
  complete u h := by simpa using h

theorem pollKeeps_runstate (Q : RunState → Prop) : PollKeeps fun u => Q u.runstate where
  wasRunning _ _ h := h
  latch _ h := h
  phase _ _ h := h
  line l v u _ h := by simpa using h
  pulse _ h := h
  cycle u _ h := by simpa using h

/-- Settles O21: the memory commands, POLL and the selectors leave RUNSTATE alone, and each of the
others writes one value. -/
theorem runstateChangesOnlyByLifecycle : Obligations.RunstateChangesOnlyByLifecycle := by
  intro i s t hexec hne
  have hsame : ∀ (v : RunState), Kept fun u => u.runstate = s.runstate ∨ u.runstate = v :=
    fun v => kept_runstate fun r => r = s.runstate ∨ r = v
  have hkept : Kept fun u => u.runstate = s.runstate := kept_runstate (· = s.runstate)
  cases i with
  | wrb _ _ | wrw _ _ | wrl _ _ | wrt _ _ | vwrb _ _ =>
    obtain ⟨_, ⟨-, -, -, ⟨hkept, -⟩, -⟩, -⟩ := storeCommandsKeepTheRest _ s t rfl hexec
    exact absurd hkept hne
  | rdb _ | rdw _ | rds _ _ | vxl _ | vrdb _ =>
    obtain ⟨_, ⟨-, -, -, ⟨hkept, -⟩, -⟩, -⟩ := readCommandsKeepTheRest _ s t rfl hexec
    exact absurd hkept hne
  | poll =>
    exact absurd (exec_poll_keeps (pollKeeps_runstate (· = s.runstate)) hkept rfl hexec) hne
  | sarch x =>
    exact absurd (exec_sarch_keeps hkept (by simp [sarchSteps]) rfl hexec) hne
  | sspd x =>
    exact absurd (exec_sspd_keeps hkept (by simp [sspdSteps]) rfl hexec) hne
  | run =>
    refine .inl ⟨rfl, (exec_run_keeps (hsame .running) ?_ ?_ (.inl rfl) hexec).resolve_left hne⟩
    · intro p _ u _ h
      simpa using h
    · intro c
      cases hbuild : c.tickBuildEnabled <;> simp [releaseSteps, hbuild]
  | hrst =>
    exact .inr ⟨by simp, (exec_hrst_keeps (hsame .halted)
      (by simp [hrstSteps, guestPulseSteps]) (.inl rfl) hexec).resolve_left hne⟩
  | stop =>
    exact .inr ⟨by simp, (exec_stop_keeps (hsame .halted)
      (by simp [stopSteps]) (.inl rfl) hexec).resolve_left hne⟩
  | init =>
    refine .inr ⟨by simp, (exec_init_keeps (hsame .halted) (fun w _ => ?_)
      (.inl rfl) hexec).resolve_left hne⟩
    exact InitMicros.forall_mem (by constructor <;> simp) (by simp) _ _

end Sys2Proof.Safety
end

section
namespace Sys2Proof.Safety

open Sys2Proof.Machine

/-! ### What a micro-step leaves alone -/

/-- What no micro-step of a script, no raise and no count of a share or of CPOS touches. -/
structure MicroKeeps (u v : State) : Prop where
  operands : KeepsOperands u v
  results : KeepsResults u v
  marks : v.refused = u.refused ∧ v.linkBusy = u.linkBusy
  chain : v.srAddr = u.srAddr ∧ v.srData = u.srData ∧ v.sdi = u.sdi ∧ v.byteDraws = u.byteDraws ∧
    v.frameOut = u.frameOut ∧ v.frameIn = u.frameIn
  inputs : SameInputs u v
  mem : v.mem = u.mem
  hist : ∃ es, v.hist = u.hist ++ es

theorem microKeeps_spend (u : State) : MicroKeeps u u.spend := by
  constructor <;> simp +contextual [KeepsOperands, KeepsResults, KeepsString, SameInputs,
    HostServed, State.spend_of_served]

theorem microKeeps_raise (c : FaultCode) (u : State) : MicroKeeps u (u.raise c) := by
  have hhist : ∃ es, (u.raise c).hist = u.hist ++ es := by
    unfold State.raise
    split <;> simp [State.emit]
  constructor <;>
    simp [KeepsOperands, KeepsResults, KeepsString, HostServed, SameInputs, hhist]

theorem microKeeps_complete (u : State) : MicroKeeps u u.complete := by
  constructor <;> simp [KeepsOperands, KeepsResults, KeepsString, HostServed, SameInputs]

theorem microKeeps_of_script {x : Arch} {y : Speed} {fs : List (State → State)} {es : List Event}
    (h : Script x y fs es) : ∀ f ∈ fs, ∀ u, MicroKeeps u (f u) := by
  induction h with
  | nil => simp
  | _ =>
    rw [List.forall_mem_cons]
    refine ⟨fun u => ?_, by assumption⟩
    constructor <;> simp [KeepsOperands, KeepsResults, KeepsString, HostServed, SameInputs]

/-! ### Memory where no guest or card write is scheduled -/

theorem NoBusWrites.congr {s t : State} (h : NoBusWrites s) (hsched : t.schedule = s.schedule)
    (hend : t.endless = s.endless) : NoBusWrites t := by
  unfold NoBusWrites
  rw [hsched, hend]
  exact h

/-- With no bus write scheduled no byte has changed but those at `addrs` in RAM_SET. -/
def BytesKept (addrs : List Addr) (s u : State) : Prop :=
  NoBusWrites s → NoBusWrites u ∧
    ∀ b, (b ∉ addrs ∨ inRam s.cfg b = false) → u.memAt b = s.memAt b

section

variable {addrs : List Addr} {s u v : State}

theorem BytesKept.refl (addrs : List Addr) (s : State) : BytesKept addrs s s :=
  fun h => ⟨h, fun _ _ => rfl⟩

theorem BytesKept.others (h : BytesKept addrs s u) : BytesKept addrs s u.others := by
  intro hs
  obtain ⟨hu, hbytes⟩ := h hs
  obtain ⟨hmem, hquiet⟩ := State.others_mem_of_noBusWrites hu
  exact ⟨hquiet, fun b hb => by rw [State.memAt, hmem]; exact hbytes b hb⟩

theorem BytesKept.micro (h : BytesKept addrs s u) (huv : MicroKeeps u v) :
    BytesKept addrs s v := by
  intro hs
  obtain ⟨hu, hbytes⟩ := h hs
  obtain ⟨-, -, -, -, -, -, -, hend, -⟩ := huv.operands
  exact ⟨hu.congr huv.inputs.1 hend, fun b hb => by rw [State.memAt, huv.mem]; exact hbytes b hb⟩

theorem BytesKept.writeEffect {a : Addr} (w : Byte) (ha : a ∈ addrs) (hcfg : u.cfg = s.cfg)
    (h : BytesKept addrs s u) : BytesKept addrs s (u.writeEffect a w) := by
  intro hs
  obtain ⟨hu, hbytes⟩ := h hs
  refine ⟨hu.congr (by simp) (by simp), fun b hb => ?_⟩
  have hspared : ¬ (a = b ∧ inRam u.cfg a = true) := by
    rintro ⟨rfl, hram⟩
    rw [hcfg] at hram
    exact hb.elim (· ha) (by simp [hram])
  rw [State.memAt_writeEffect, if_neg hspared, hbytes b hb]

/-! ### The frame of a command that makes no read cycle -/

theorem KeepsOperands.trans (h : KeepsOperands s u) (huv : KeepsOperands u v) :
    KeepsOperands s v := by
  obtain ⟨hcfg, hA, hD, hN, hS, hT, hstream, hend, hserved⟩ := h
  obtain ⟨hcfg', hA', hD', hN', hS', hT', hstream', hend', hserved'⟩ := huv
  exact ⟨hcfg'.trans hcfg, hA'.trans hA, hD'.trans hD, hN'.trans hN, hS'.trans hS, hT'.trans hT,
    hstream'.trans hstream, hend'.trans hend, hserved' ∘ hserved⟩

theorem MicroKeeps.agreeInputs (huv : MicroKeeps u v) (h : AgreeInputs s u) : AgreeInputs s v := by
  obtain ⟨⟨hsched, hdraws, hreq, hdbell⟩, hport, hend⟩ := h
  obtain ⟨hsched', hdraws', hreq', hdbell'⟩ := huv.inputs
  obtain ⟨hcfg, -, -, -, -, -, -, hend', -⟩ := huv.operands
  exact ⟨⟨hsched'.trans hsched, hdraws'.trans hdraws, hreq'.trans hreq, hdbell'.trans hdbell⟩,
    by rw [hcfg, hport], hend'.trans hend⟩

/-- What every command of this family keeps at every point, but for the bytes RUN stores at `addrs`.
-/
structure HostFrame (addrs : List Addr) (s u : State) : Prop where
  operands : KeepsOperands s u
  results : KeepsResults s u
  marks : u.refused = s.refused ∧ u.linkBusy = s.linkBusy
  reads : u.sdi = s.sdi ∧ u.byteDraws = s.byteDraws
  bytes : BytesKept addrs s u

theorem HostFrame.refl (addrs : List Addr) (s : State) : HostFrame addrs s s :=
  ⟨⟨rfl, rfl, rfl, rfl, rfl, rfl, rfl, rfl, id⟩, ⟨rfl, rfl, rfl⟩, ⟨rfl, rfl⟩, ⟨rfl, rfl⟩,
    .refl addrs s⟩

theorem HostFrame.others (h : HostFrame addrs s u) : HostFrame addrs s u.others where
  operands := by simpa [KeepsOperands, HostServed] using h.operands
  results := by simpa [KeepsResults, KeepsString] using h.results
  marks := by simpa using h.marks
  reads := by simpa using h.reads
  bytes := h.bytes.others

theorem HostFrame.micro (h : HostFrame addrs s u) (huv : MicroKeeps u v) :
    HostFrame addrs s v where
  operands := h.operands.trans huv.operands
  results := by
    obtain ⟨hq, hbuf, hqt⟩ := h.results
    obtain ⟨hq', hbuf', hqt'⟩ := huv.results
    exact ⟨hq'.trans hq, hbuf'.trans hbuf, hqt'.trans hqt⟩
  marks := by simpa [huv.marks] using h.marks
  reads := by simpa [huv.chain] using h.reads
  bytes := h.bytes.micro huv

theorem HostFrame.writeEffect {a : Addr} (w : Byte) (ha : a ∈ addrs) (hcheck : u.linkCheck = none)
    (h : HostFrame addrs s u) : HostFrame addrs s (u.writeEffect a w) where
  operands := by simpa [KeepsOperands, HostServed] using h.operands
  results := by simpa [KeepsResults, KeepsString] using h.results
  marks := by simpa [((State.linkCheck_eq_none_iff u).1 hcheck).1] using h.marks
  reads := by simpa using h.reads
  bytes := h.bytes.writeEffect w ha h.operands.1

/-! ### INIT (44_cpu_lifecycle R240) -/

/-- What INIT keeps at every point. -/
structure InitFrame (s u : State) : Prop extends HostFrame [] s u where
  chain : u.srAddr = s.srAddr ∧ u.srData = s.srData ∧ u.frameOut = s.frameOut ∧
    u.frameIn = s.frameIn
  ack : s.cfg.hasExpansion = false → u.ack = s.ack
  inputs : ∃ k, AgreeInputs (State.waits k s) u

theorem InitFrame.refl (s : State) : InitFrame s s :=
  ⟨.refl [] s, ⟨rfl, rfl, rfl, rfl⟩, fun _ => rfl, 0, ⟨rfl, rfl, rfl, rfl⟩, rfl, rfl⟩

theorem InitFrame.micro (h : InitFrame s u) (huv : MicroKeeps u v)
    (hack : s.cfg.hasExpansion = false → v.ack = u.ack) : InitFrame s v where
  toHostFrame := h.toHostFrame.micro huv
  chain := by simpa [huv.chain] using h.chain
  ack hport := (hack hport).trans (h.ack hport)
  inputs := h.inputs.imp fun _ hk => huv.agreeInputs hk

theorem InitFrame.kept (s : State) : Kept (InitFrame s) where
  others u h :=
    { toHostFrame := h.toHostFrame.others
      chain := by simpa using h.chain
      ack := by simpa using h.ack
      inputs := by
        obtain ⟨k, hk⟩ := h.inputs
        exact ⟨k + 1, by rw [← State.others_waits]; exact hk.others⟩ }
  spend u h := h.micro (microKeeps_spend u) (by simp)
  raise c u h := h.micro (microKeeps_raise c u) (by simp)
  complete u h := h.micro (microKeeps_complete u) (by simp)

theorem SameInputs.of_noMoves {k : Nat} (h : SameInputs (State.waits k s) u) (hs : NoMoves s) :
    u.req = s.req ∧ u.dbell = s.dbell := by
  rw [State.waits_of_noMoves k hs] at h
  obtain ⟨-, -, hreq, hdbell⟩ := h
  exact ⟨hreq, hdbell⟩

/-- Without the port INIT does not drive ACK. -/
theorem initSteps_ack {c : Config} (hport : c.hasExpansion = false) (b0 b1 : Byte) :
    ∀ f ∈ initSteps c b0 b1, ∀ u, (f u).ack = u.ack := by
  refine InitMicros.forall_mem ?_ (by simp) b0 b1
  constructor
  case line => intro l hl u; cases l <;> simp at hl ⊢
  all_goals simp [hport]

/-- Settles O41: every micro-step of INIT's script keeps the frame. -/
theorem initKeepsTheRest : Obligations.InitKeepsTheRest := by
  intro s t hexec
  have hframe : InitFrame s t := by
    refine exec_init_keeps (InitFrame.kept s) (fun w hw f hf u hu => ?_) (InitFrame.refl s) hexec
    have hcfg : w.cfg = s.cfg := hw.operands.1
    exact hu.micro (microKeeps_of_script (initSteps_script w w.arch w.speed) f hf u)
      fun hport => initSteps_ack (hcfg ▸ hport) _ _ f hf u
  obtain ⟨⟨hoperands, hresults, ⟨hrefused, hbusy⟩, ⟨hsdi, hdraws⟩, hbytes⟩,
    ⟨haddr, hdata, hout, hin⟩, hack, k, hinputs, -⟩ := hframe
  exact ⟨hoperands, hresults, hrefused, hbusy, haddr, hdata, hsdi, hdraws, hout, hin, hack,
    hinputs.of_noMoves, ⟨k, hinputs⟩, fun hquiet b => (hbytes hquiet).2 b (.inl (by simp))⟩

/-! ### HRST, RUN and STOP (44_cpu_lifecycle R256, R403) -/

theorem State.dbellEdge_hist (v : Bool) (s : State) :
    (s.dbellEdge v).hist = s.hist ++ [.dbEdge v] := by
  simp only [State.dbellEdge]
  split
  · split <;> simp
  · simp

/-- Since `s` only a tick has changed INT. -/
def IntByTick (s u : State) : Prop :=
  ∃ ev, u.hist = s.hist ++ ev ∧ (Event.tickFire ∉ ev → u.int = s.int)

theorem IntByTick.append (h : IntByTick s u) (huv : IntByTick u v) : IntByTick s v := by
  obtain ⟨ev, hhist, hint⟩ := h
  obtain ⟨new, hhist', hint'⟩ := huv
  refine ⟨ev ++ new, by rw [hhist', hhist, List.append_assoc], fun hno => ?_⟩
  rw [List.mem_append, not_or] at hno
  exact (hint' hno.2).trans (hint hno.1)

theorem intByTick_others (s : State) : IntByTick s s.others := by
  refine State.others_induct (P := IntByTick s) (fun u l h => h) (fun u h => h)
    (fun u m _ h => h.append ?_) ⟨[], by simp, fun _ => rfl⟩
  cases m with
  | tick => exact ⟨[.tickFire, .line .int true, .line .int false, .intPulse .tick],
      by simp [State.perform, State.tickHandler], by simp⟩
  | doorbellDeliver => exact ⟨[], by simp [State.perform, State.deliverPending], by simp [State.perform]⟩
  | cardReq v => exact ⟨[.req v], by simp [State.perform, State.changeReq], by simp [State.perform]⟩
  | cardDbell v => exact ⟨[.dbEdge v], by simp [State.perform, State.dbellEdge_hist],
      by simp [State.perform]⟩
  | cardWrite a w => exact ⟨[.xWrite a w], by simp [State.perform], by simp [State.perform]⟩
  | guestWrite a w => exact ⟨[.gWrite a w], by simp [State.perform], by simp [State.perform]⟩

/-- What the micro-steps of HRST, RUN and STOP leave alone besides. -/
def GuestKeeps (u v : State) : Prop :=
  KeepsModes u v ∧ KeepsArbiter u v ∧ KeepsSettings u v ∧
  (v.speedsel = u.speedsel ∧ v.ack = u.ack ∧ v.latch = u.latch ∧ v.int = u.int) ∧
  v.doorbellLatch = u.doorbellLatch ∧ v.dbPending = u.dbPending ∧ v.edgeDraws = u.edgeDraws

theorem guestKeeps_spend (u : State) : GuestKeeps u u.spend := by
  simp [GuestKeeps, KeepsModes, KeepsArbiter, KeepsSettings]

theorem guestKeeps_raise (c : FaultCode) (u : State) : GuestKeeps u (u.raise c) := by
  simp [GuestKeeps, KeepsModes, KeepsArbiter, KeepsSettings]

theorem guestKeeps_complete (u : State) : GuestKeeps u u.complete := by
  simp [GuestKeeps, KeepsModes, KeepsArbiter, KeepsSettings]

theorem guestKeeps_hrstSteps : ∀ f ∈ hrstSteps, ∀ u, GuestKeeps u (f u) := by
  simp [hrstSteps, guestPulseSteps, GuestKeeps, KeepsModes, KeepsArbiter, KeepsSettings]

theorem guestKeeps_stopSteps : ∀ f ∈ stopSteps, ∀ u, GuestKeeps u (f u) := by
  simp [stopSteps, GuestKeeps, KeepsModes, KeepsArbiter, KeepsSettings]

theorem guestKeeps_releaseSteps (c : Config) : ∀ f ∈ releaseSteps c, ∀ u, GuestKeeps u (f u) := by
  cases hbuild : c.tickBuildEnabled <;>
    simp [releaseSteps, hbuild, GuestKeeps, KeepsModes, KeepsArbiter, KeepsSettings]

/-- What HRST, RUN and STOP keep at every point, but for the bytes RUN stores at `addrs`. -/
structure GuestFrame (addrs : List Addr) (s u : State) : Prop extends HostFrame addrs s u where
  modes : KeepsModes s u
  arbiter : KeepsArbiter s u
  settings : KeepsSettings s u
  lines : u.speedsel = s.speedsel ∧ u.ack = s.ack ∧ u.latch = s.latch
  doorbell : ∃ k, AgreeDoorbell (State.waits k s) u
  int : IntByTick s u
  quiet : NoMoves s → NoMoves u ∧ u.int = s.int

theorem GuestFrame.refl (addrs : List Addr) (s : State) : GuestFrame addrs s s where
  toHostFrame := .refl addrs s
  modes := by simp [KeepsModes]
  arbiter := by simp [KeepsArbiter]
  settings := by simp [KeepsSettings]
  lines := ⟨rfl, rfl, rfl⟩
  doorbell := ⟨0, by simp [AgreeDoorbell, AgreeInputs, SameInputs, State.waits]⟩
  int := ⟨[], by simp, fun _ => rfl⟩
  quiet h := ⟨h, rfl⟩

theorem GuestFrame.others (h : GuestFrame addrs s u) : GuestFrame addrs s u.others where
  toHostFrame := h.toHostFrame.others
  modes := by simpa [KeepsModes] using h.modes
  arbiter := by simpa [KeepsArbiter] using h.arbiter
  settings := by simpa [KeepsSettings] using h.settings
  lines := by simpa using h.lines
  doorbell := by
    obtain ⟨k, hk⟩ := h.doorbell
    exact ⟨k + 1, by rw [← State.others_waits]; exact hk.others⟩
  int := h.int.append (intByTick_others u)
  quiet hs := by rw [State.others_of_noMoves (h.quiet hs).1]; exact h.quiet hs

theorem MicroKeeps.agreeDoorbell (huv : MicroKeeps u v) (hguest : GuestKeeps u v)
    (h : AgreeDoorbell s u) : AgreeDoorbell s v := by
  obtain ⟨⟨-, -, hie, hdbie, -⟩, -, -, -, hlatch, hpend, hdraws⟩ := hguest
  obtain ⟨hinputs, hrest⟩ := h
  exact ⟨huv.agreeInputs hinputs,
    by simpa [hlatch, hpend, hdraws, huv.operands.1, hie, hdbie] using hrest⟩

theorem MicroKeeps.intByTick (huv : MicroKeeps u v) (hint : v.int = u.int) : IntByTick u v := by
  obtain ⟨es, hhist⟩ := huv.hist
  exact ⟨es, hhist, fun _ => hint⟩

theorem MicroKeeps.noMoves (huv : MicroKeeps u v) (h : NoMoves u) : NoMoves v := by
  obtain ⟨hsched, -⟩ := huv.inputs
  obtain ⟨-, -, -, -, -, -, -, hend, -⟩ := huv.operands
  exact ⟨hsched.trans h.1, hend.trans h.2⟩

theorem GuestFrame.micro (h : GuestFrame addrs s u) (huv : MicroKeeps u v)
    (hguest : GuestKeeps u v) : GuestFrame addrs s v := by
  have ⟨hmodes, harbiter, hsettings, ⟨hspeedsel, hack, hlatch, hint⟩, _⟩ := hguest
  constructor
  case toHostFrame => exact h.toHostFrame.micro huv
  case modes => unfold KeepsModes at hmodes; simpa [KeepsModes, hmodes] using h.modes
  case arbiter => unfold KeepsArbiter at harbiter; simpa [KeepsArbiter, harbiter] using h.arbiter
  case settings =>
    unfold KeepsSettings at hsettings; simpa [KeepsSettings, hsettings] using h.settings
  case lines => simpa [hspeedsel, hack, hlatch] using h.lines
  case doorbell => exact h.doorbell.imp fun _ hk => huv.agreeDoorbell hguest hk
  case int => exact h.int.append (huv.intByTick hint)
  case quiet => exact fun hs => ⟨huv.noMoves (h.quiet hs).1, hint.trans (h.quiet hs).2⟩

theorem GuestFrame.kept (addrs : List Addr) (s : State) : Kept (GuestFrame addrs s) where
  others _ h := h.others
  spend u h := h.micro (microKeeps_spend u) (guestKeeps_spend u)
  raise c u h := h.micro (microKeeps_raise c u) (guestKeeps_raise c u)
  complete u h := h.micro (microKeeps_complete u) (guestKeeps_complete u)

/-- A write cycle of RUN. -/
theorem GuestFrame.writeEffect {a : Addr} (w : Byte) (ha : a ∈ addrs) (hcheck : u.linkCheck = none)
    (h : GuestFrame addrs s u) : GuestFrame addrs s (u.writeEffect a w) where
  toHostFrame := h.toHostFrame.writeEffect w ha hcheck
  modes := by
    simpa [KeepsModes, ((State.linkCheck_eq_none_iff u).1 hcheck).1] using h.modes
  arbiter := by simpa [KeepsArbiter] using h.arbiter
  settings := by simpa [KeepsSettings] using h.settings
  lines := by simpa using h.lines
  doorbell := by simpa [AgreeDoorbell, AgreeInputs, SameInputs] using h.doorbell
  int := h.int.append ⟨[.cyc .write a w], by simp, by simp⟩
  quiet := by simpa [NoMoves] using h.quiet

theorem kept_keepsLink (s : State) : Kept (KeepsLink s) where
  others u h := by simpa [KeepsLink] using h
  spend u h := by simpa [KeepsLink] using h
  raise c u h := by simpa [KeepsLink] using h
  complete u h := by simpa [KeepsLink] using h

theorem kept_archsel (s : State) : Kept fun u => u.archsel = s.archsel where
  others u h := by simpa using h
  spend u h := by simpa using h
  raise c u h := by simpa using h
  complete u h := by simpa using h

theorem releaseSteps_archsel (c : Config) : ∀ f ∈ releaseSteps c, ∀ u, (f u).archsel = u.archsel := by
  cases hbuild : c.tickBuildEnabled <;> simp [releaseSteps, hbuild]

/-- The addresses these commands may store at. -/
def guestStores (s : State) (i : Instr) : List Addr :=
  if i = .run then (bootBytes s.cfg s.arch).map Prod.fst else []

/-- The frame of HRST, RUN and STOP on every path. -/
theorem guestFrame_of_exec {i : Instr} {t : State} (hi : i = .hrst ∨ i = .run ∨ i = .stop)
    (hexec : exec i s = .next t) : GuestFrame (guestStores s i) s t := by
  have hkept := GuestFrame.kept (guestStores s i) s
  have hstart := GuestFrame.refl (guestStores s i) s
  rcases hi with rfl | rfl | rfl
  · exact exec_hrst_keeps hkept (fun f hf u hu => hu.micro
      (microKeeps_of_script (hrstSteps_script u.arch u.speed) f hf u)
      (guestKeeps_hrstSteps f hf u)) hstart hexec
  · exact exec_run_keeps hkept
      (fun p hp u hcheck hu => hu.writeEffect p.2 (List.mem_map_of_mem hp) hcheck)
      (fun c f hf u hu => hu.micro
        (microKeeps_of_script (releaseSteps_script c u.arch u.speed) f hf u)
        (guestKeeps_releaseSteps c f hf u)) hstart hexec
  · exact exec_stop_keeps hkept (fun f hf u hu => hu.micro
      (microKeeps_of_script (stopSteps_script u.arch u.speed) f hf u)
      (guestKeeps_stopSteps f hf u)) hstart hexec

theorem hrst_stop_keepsLink {i : Instr} {t : State} (hi : i = .hrst ∨ i = .stop)
    (hexec : exec i s = .next t) : KeepsLink s t := by
  have hstart : KeepsLink s s := by simp [KeepsLink]
  rcases hi with rfl | rfl
  · exact exec_hrst_keeps (kept_keepsLink s)
      (by simp +contextual [hrstSteps, guestPulseSteps, KeepsLink]) hstart hexec
  · exact exec_stop_keeps (kept_keepsLink s) (by simp +contextual [stopSteps, KeepsLink]) hstart hexec

theorem run_stop_archsel {i : Instr} {t : State} (hi : i = .run ∨ i = .stop)
    (hexec : exec i s = .next t) : t.archsel = s.archsel := by
  rcases hi with rfl | rfl
  · exact exec_run_keeps (kept_archsel s) (fun p _ u _ hu => by simpa using hu)
      (fun c f hf u hu => (releaseSteps_archsel c f hf u).trans hu) rfl hexec
  · exact exec_stop_keeps (kept_archsel s) (by simp [stopSteps]) rfl hexec

/-- Settles O47: the frame of the three commands, at whatever point they end. -/
theorem guestControlCommandsKeepTheRest : Obligations.GuestControlCommandsKeepTheRest := by
  intro i s t hi hexec
  obtain ⟨⟨hoperands, hresults, -, ⟨hsdi, hdraws⟩, hbytes⟩, hmodes, harbiter, hsettings,
    ⟨hspeedsel, hack, hlatch⟩, ⟨k, ⟨hinputs, -, -⟩, hdoor, hpend, hedge, -⟩, hint, hquiet⟩ :=
    guestFrame_of_exec hi hexec
  refine ⟨hoperands, hresults, hmodes, harbiter, hsettings, hspeedsel, hack, hlatch, hsdi, hdraws,
    fun hrun => ?link, fun hhrst => ?select, fun hs => ?quiet, ⟨k, hinputs, hdoor, hpend, hedge⟩,
    hint, fun hs b hb => ?bytes⟩
  case link => exact hrst_stop_keepsLink (by tauto) hexec
  case select => exact run_stop_archsel (by tauto) hexec
  case quiet =>
    obtain ⟨hreq, hdbell⟩ := hinputs.of_noMoves hs
    rw [State.waits_of_noMoves k hs] at hdoor hpend hedge
    exact ⟨hreq, hdbell, hdoor, hpend, (hquiet hs).2, hedge⟩
  case bytes =>
    refine (hbytes hs).2 b ?_
    by_cases hrun : i = .run
    · simpa [guestStores, hrun] using hb hrun
    · simp [guestStores, hrun]

end

end Sys2Proof.Safety
end

section
namespace Sys2Proof.Safety

open Sys2Proof.Machine

/-! ### RUN (44_cpu_lifecycle R260) -/

theorem NoBusWrites.waits {s : State} (h : NoBusWrites s) (k : Nat) : NoBusWrites (State.waits k s) := by
  induction k with
  | zero => exact h
  | succ k ih =>
    rw [← State.others_waits]
    exact (State.others_mem_of_noBusWrites ih).2

/-- The release of the guest makes no cycle. -/
theorem releaseSteps_memAt {s : State} (c : Config) (h : NoBusWrites s) (b : Addr) :
    (State.runGiven (releaseSteps c) s).memAt b = s.memAt b := by
  have hkept : BytesKept [] s (State.runGiven (releaseSteps c) s) :=
    State.runGiven_induct (fun _ hu => hu.others) (fun u hu => hu.micro (microKeeps_spend u))
      (fun f hf u hu => hu.micro (microKeeps_of_script (releaseSteps_script c u.arch u.speed) f hf u))
      (.refl [] s)
  exact (hkept h).2 b (.inl (by simp))

/-- Settles O43: the boot bytes are write cycles on a free bus, and the release is a script. -/
theorem runBootsTheSelectedGuest : Obligations.RunBootsTheSelectedGuest := by
  intro s h
  obtain ⟨hinit, -, -⟩ := h.requireInit
  obtain ⟨u, hwrite, hbytes, hlog, hcpos, hfault⟩ := h.others.writeBytes (bootBytes s.cfg s.arch)
  have hpristine : Pristine 1 s s.others := ⟨s.others.hostShare, rfl, fun hs => by simpa using hs⟩
  obtain ⟨k, hu⟩ : Framed (StoreKeeps s) (StoreKeeps s) _ s (.ok () u) :=
    hwrite ▸ framed_writeBytes_of_pristine (bootBytes s.cfg s.arch) hpristine
  obtain ⟨⟨hcfg, -, -, -, -, -, -, hend, hserved⟩, -, -, ⟨-, htick⟩, -, -, hsched, -⟩ := hu.rest
  have hscript := releaseSteps_script s.cfg u.arch u.speed
  obtain ⟨hrun, -, hrelease⟩ := hscript.run rfl rfl (hserved h.1) (Logged.start u)
  obtain ⟨hcpos', hfault'⟩ := hscript.uncounted u
  have hexec : exec .run s = .next (State.runGiven (releaseSteps s.cfg) u).complete := by
    change (s.requireInit.bind fun _ w => (State.writeBytes (bootBytes w.cfg w.arch) w).bind
      fun _ w => State.runMicros (releaseSteps w.cfg) w).finish = _
    simp only [hinit, Result.bind_ok, State.others_cfg, State.others_arch, hwrite, hcfg, hrun,
      Result.finish_ok]
  refine ⟨_, hexec, ⟨?counted, ?fault⟩, ?_, ?_, ?_, ?_, bootBytes s.cfg s.arch,
    fun h6502 => ?glue6502, fun hZ80 => ?glueZ80, ?log, fun hquiet b => ?bytes⟩
  case counted => simpa [State.complete, hcpos'] using hcpos
  case fault => simpa [hfault'] using hfault
  case log =>
    refine hrelease.hostLog.trans ?_
    rw [hlog, State.others_hostLog]
    rfl
  case bytes =>
    have hu : NoBusWrites u := (hquiet.waits k).congr hsched (by simpa using hend)
    change (State.runGiven (releaseSteps s.cfg) u).memAt b = _
    rw [releaseSteps_memAt s.cfg hu]
    exact (hbytes b).trans (h.byteAfter_others _ b)
  case glue6502 => rw [h6502]; rfl
  case glueZ80 => rw [hZ80]; rfl
  all_goals cases hbuild : s.cfg.tickBuildEnabled <;> simp [releaseSteps, hbuild, htick]

/-! ### SARCH and SSPD (44_cpu_lifecycle R280, R284) -/

/-- What SARCH and SSPD keep at every point. -/
structure SelectorFrame (s u : State) : Prop where
  operands : KeepsOperands s u
  results : KeepsResults s u
  arbiter : KeepsArbiter s u
  run : KeepsRun s u
  link : KeepsLink s u
  modes : u.ie = s.ie ∧ u.doorbellIe = s.doorbellIe ∧ u.initialised = s.initialised ∧
    u.refused = s.refused ∧ u.linkBusy = s.linkBusy
  lines : u.resetLine = s.resetLine ∧ u.busen = s.busen ∧ u.ack = s.ack
  async : ∃ k, ∀ b, AgreeAt b (State.waits k s) u

theorem SelectorFrame.refl (s : State) : SelectorFrame s s where
  operands := by simp [KeepsOperands]
  results := by simp [KeepsResults, KeepsString]
  arbiter := by simp [KeepsArbiter]
  run := by simp [KeepsRun]
  link := by simp [KeepsLink]
  modes := by simp
  lines := by simp
  async := ⟨0, fun _ => ⟨AgreeAsync.refl s, rfl⟩⟩

/-- What the micro-steps of SARCH and SSPD leave alone besides. -/
def SelectorKeeps (u v : State) : Prop :=
  KeepsArbiter u v ∧ KeepsRun u v ∧ KeepsLink u v ∧ SameAsync u v ∧
  (v.ie = u.ie ∧ v.doorbellIe = u.doorbellIe ∧ v.initialised = u.initialised) ∧
  v.resetLine = u.resetLine ∧ v.busen = u.busen ∧ v.ack = u.ack

theorem SelectorFrame.others {s u : State} (h : SelectorFrame s u) : SelectorFrame s u.others where
  operands := by simpa [KeepsOperands, HostServed] using h.operands
  results := by simpa [KeepsResults, KeepsString] using h.results
  arbiter := by simpa [KeepsArbiter] using h.arbiter
  run := by simpa [KeepsRun] using h.run
  link := by simpa [KeepsLink] using h.link
  modes := by simpa using h.modes
  lines := by simpa using h.lines
  async := by
    obtain ⟨k, hk⟩ := h.async
    exact ⟨k + 1, fun b => by rw [← State.others_waits]; exact (hk b).others⟩

theorem SelectorFrame.micro {s u v : State} (h : SelectorFrame s u) (huv : MicroKeeps u v)
    (hsel : SelectorKeeps u v) : SelectorFrame s v := by
  obtain ⟨harbiter, hrun, hlink, hasync, ⟨hie, hdbie, hinit⟩, hreset, hbusen, hack⟩ := hsel
  obtain ⟨hcfg, -, -, -, -, -, -, hend, -⟩ := huv.operands
  constructor
  case operands => exact h.operands.trans huv.operands
  case results =>
    obtain ⟨hq, hbuf, hqt⟩ := huv.results
    simpa [KeepsResults, KeepsString, hq, hbuf, hqt] using h.results
  case arbiter => unfold KeepsArbiter at harbiter; simpa [KeepsArbiter, harbiter] using h.arbiter
  case run => unfold KeepsRun at hrun; simpa [KeepsRun, hrun] using h.run
  case link => unfold KeepsLink at hlink; simpa [KeepsLink, hlink] using h.link
  case modes => simpa [hie, hdbie, hinit, huv.marks] using h.modes
  case lines => simpa [hreset, hbusen, hack] using h.lines
  case async =>
    obtain ⟨k, hk⟩ := h.async
    refine ⟨k, fun b => ?_⟩
    unfold SameAsync at hasync
    simpa [AgreeAt, AgreeAsync, SameAsync, State.memAt, hasync, hcfg, hrun.2, hie, hdbie, hbusen,
      hack, hend, huv.mem] using hk b

theorem SelectorFrame.kept (s : State) : Kept (SelectorFrame s) where
  others _ h := h.others
  spend u h := h.micro (microKeeps_spend u)
    (by simp [SelectorKeeps, KeepsArbiter, KeepsRun, KeepsLink, SameAsync])
  raise c u h := h.micro (microKeeps_raise c u)
    (by simp [SelectorKeeps, KeepsArbiter, KeepsRun, KeepsLink, SameAsync])
  complete u h := h.micro (microKeeps_complete u)
    (by simp [SelectorKeeps, KeepsArbiter, KeepsRun, KeepsLink, SameAsync])

theorem selectorKeeps_sarchSteps (x : Arch) : ∀ f ∈ sarchSteps x, ∀ u, SelectorKeeps u (f u) := by
  simp [sarchSteps, SelectorKeeps, KeepsArbiter, KeepsRun, KeepsLink, SameAsync]

theorem selectorKeeps_sspdSteps (x : Speed) : ∀ f ∈ sspdSteps x, ∀ u, SelectorKeeps u (f u) := by
  simp [sspdSteps, SelectorKeeps, KeepsArbiter, KeepsRun, KeepsLink, SameAsync]

/-- What belongs to the other selector: what SARCH leaves of the speed, and SSPD of the
architecture. -/
theorem kept_speedMirror (s : State) : Kept fun u =>
    u.speed = s.speed ∧ u.setting1 = s.setting1 ∧ u.speedsel = s.speedsel := by
  constructor <;> simp

theorem kept_archMirror (s : State) : Kept fun u =>
    u.arch = s.arch ∧ u.setting0 = s.setting0 ∧ u.archsel = s.archsel := by
  constructor <;> simp

/-- The frame of SARCH and SSPD on every path. -/
theorem selectorFrame_of_exec {i : Instr} {s t : State} (hi : (∃ x, i = .sarch x) ∨ ∃ x, i = .sspd x)
    (hexec : exec i s = .next t) : SelectorFrame s t := by
  rcases hi with ⟨x, rfl⟩ | ⟨x, rfl⟩
  · exact exec_sarch_keeps (SelectorFrame.kept s) (fun f hf u hu => hu.micro
      (microKeeps_of_script (sarchSteps_script x u.arch u.speed) f hf u)
      (selectorKeeps_sarchSteps x f hf u)) (SelectorFrame.refl s) hexec
  · exact exec_sspd_keeps (SelectorFrame.kept s) (fun f hf u hu => hu.micro
      (microKeeps_of_script (sspdSteps_script x u.speed u.arch) f hf u)
      (selectorKeeps_sspdSteps x f hf u)) (SelectorFrame.refl s) hexec

/-- Settles O48: the frame of the two commands, at whatever point they end. -/
theorem selectorCommandsKeepTheRest : Obligations.SelectorCommandsKeepTheRest := by
  intro i s t hi hexec
  obtain ⟨hoperands, hresults, harbiter, hrun, hlink, ⟨hie, hdbie, hinit, hrefused, hbusy⟩,
    ⟨hreset, hbusen, hack⟩, k, hasync⟩ := selectorFrame_of_exec hi hexec
  refine ⟨k, hoperands, hresults, harbiter, hrun, hlink, hie, hdbie, hinit, hrefused, hbusy, hreset,
    hbusen, hack, ?sarch, ?sspd, (hasync 0).1.1, fun b => (hasync b).2⟩
  case sarch =>
    rintro ⟨x, rfl⟩
    exact exec_sarch_keeps (kept_speedMirror s) (by simp +contextual [sarchSteps]) ⟨rfl, rfl, rfl⟩ hexec
  case sspd =>
    rintro ⟨x, rfl⟩
    exact exec_sspd_keeps (kept_archMirror s) (by simp +contextual [sspdSteps]) ⟨rfl, rfl, rfl⟩ hexec

end Sys2Proof.Safety
end

section
namespace Sys2Proof.Safety

open Sys2Proof.Machine

/-! ### The invariant, at every point and between two commands -/

/-- What the invariant says at every point of the interleaving. -/
def Standing (s : State) : Prop :=
  Memory.wf s.mem = true ∧ s.linkBusy = false ∧
  (s.initialised = true → ¬ (s.busen = true ∧ s.acked = true))

/-- What it says besides between two commands. -/
def Between (s : State) : Prop :=
  (s.initialised = true → InvReady s) ∧ (s.initialised = false → InvPowerOn s)

def Settled (s : State) : Prop := Standing s ∧ Between s

theorem machineInv_iff (s : State) :
    MachineInv s ↔ Standing s ∧ (¬ HostDenied s → Between s) := by
  simp only [MachineInv, Standing, Between, and_assoc]

theorem Settled.machineInv {s : State} (h : Settled s) : MachineInv s :=
  (machineInv_iff s).2 ⟨h.1, fun _ => h.2⟩

theorem Standing.machineInv {s : State} (h : Standing s) (hd : HostDenied s) : MachineInv s :=
  (machineInv_iff s).2 ⟨h, fun hnot => absurd hd hnot⟩

theorem kept_standing : Kept Standing := by
  constructor
  case others =>
    rintro u ⟨hwf, hrest⟩
    exact ⟨State.others_keeps_wf hwf, by simpa using hrest⟩
  all_goals intros; simpa [Standing, State.acked] using ‹Standing _›

theorem InvReady.others {s : State} (h : InvReady s) : InvReady s.others := by
  obtain ⟨hA, hS, h0, h1, hreset, hint, hrest⟩ := h
  exact ⟨by simpa using hA, by simpa using hS, by simpa using h0, by simpa using h1,
    by simpa using hreset, State.others_int hint, by simpa using hrest⟩

/-- Before INIT no doorbell edge is looked at. -/
theorem InvPowerOn.others {s : State} (h : InvPowerOn s) : InvPowerOn s.others := by
  refine State.others_induct (P := InvPowerOn) (fun _ _ h => h) (fun _ h => h) (fun u m he hu => ?_) h
  have ⟨_, _, _, hpend, _, hdbie, _⟩ := hu
  cases m with
  | doorbellDeliver => simp [State.enabled, hpend] at he
  | cardDbell v => simpa [InvPowerOn, State.perform, State.dbellEdge, hdbie] using hu
  | _ => simpa [InvPowerOn, State.perform, State.tickHandler, State.changeReq] using hu

theorem kept_between : Kept Between := by
  constructor
  case others =>
    rintro u ⟨hready, hpower⟩
    exact ⟨fun hi => (hready (by simpa using hi)).others, fun hi => (hpower (by simpa using hi)).others⟩
  all_goals
    intros
    simpa [Between, InvReady, InvPowerOn, State.acked, State.isRunning] using ‹Between _›

theorem kept_and {P Q : State → Prop} (hP : Kept P) (hQ : Kept Q) : Kept fun u => P u ∧ Q u where
  others u h := ⟨hP.others u h.1, hQ.others u h.2⟩
  spend u h := ⟨hP.spend u h.1, hQ.spend u h.2⟩
  raise c u h := ⟨hP.raise c u h.1, hQ.raise c u h.2⟩
  complete u h := ⟨hP.complete u h.1, hQ.complete u h.2⟩

theorem kept_settled : Kept Settled := kept_and kept_standing kept_between

theorem MachineInv.others {s : State} (h : MachineInv s) : MachineInv s.others := by
  rw [machineInv_iff] at h ⊢
  obtain ⟨hstanding, hbetween⟩ := h
  exact ⟨kept_standing.others s hstanding, fun hd =>
    kept_between.others s (hbetween (by simpa [HostDenied] using hd))⟩

theorem MachineInv.markRefused {s : State} (r : DecodeRefusal) (h : MachineInv s) :
    MachineInv (s.markRefused r) := by
  simpa [MachineInv, InvReady, InvPowerOn, State.acked, State.isRunning, HostDenied] using h

theorem Settled.fetch {s : State} (rest : List Byte) (i : Instr) (h : Settled s) :
    Settled ((s.setStream rest).latchOperands i) := by
  simpa [Settled, Standing, Between, InvReady, InvPowerOn, State.acked, State.isRunning] using h

/-! ### The commands that only make cycles -/

theorem Settled.setQ {s : State} (v : Word16) (h : Settled s) : Settled (s.setQ v) := h

theorem Settled.setString {s : State} (buf : List Byte) (b : Bool) (h : Settled s) :
    Settled (s.setString buf b) := h

theorem Settled.writeEffect {s : State} (a : Addr) (v : Byte) (h : Settled s) :
    Settled (s.writeEffect a v) := by
  obtain ⟨⟨hwf, -, hbus⟩, hready, hpower⟩ := h
  refine ⟨⟨?wf, by simp, by simpa [State.acked] using hbus⟩, fun hi => ?ready, ?power⟩
  case wf =>
    rw [State.writeEffect_mem]
    split
    · exact Memory.wf_writeAt a v hwf
    · exact hwf
  case ready =>
    have hs := hready (by simpa using hi)
    simp_all [InvReady, State.acked, State.isRunning]
  case power => simpa [InvPowerOn] using hpower

theorem Settled.readEffect {s : State} (a : Addr) (h : Settled s) :
    Settled (s.readEffect a) := by
  obtain ⟨⟨hwf, -, hbus⟩, hready, hpower⟩ := h
  refine ⟨⟨by simpa using hwf, by simp, by simpa [State.acked] using hbus⟩, fun hi => ?ready, ?power⟩
  case ready =>
    have hs := hready (by simpa using hi)
    simp_all [InvReady, State.acked, State.isRunning]
  case power => simpa [InvPowerOn] using hpower

/-! ### A command that leads from one point to another -/

/-- Where a command goes on, it does so with `Q`; where it does not, the invariant holds. -/
def Leads {α : Type} (Q : State → Prop) : Result α → Prop
  | .ok _ u => Q u
  | .stop t => MachineInv t

section

variable {α β : Type} {Q R : State → Prop} {s t : State}

theorem Leads.bind {r : Result α} {k : α → State → Result β} (h : Leads Q r)
    (hk : ∀ x u, Q u → Leads R (k x u)) : Leads R (r.bind k) := by
  cases r with
  | ok x u => exact hk x u h
  | stop t => exact h

theorem Leads.of_holds {r : Result α} (h : r.Holds Q) (hQ : ∀ u, Q u → MachineInv u) :
    Leads Q r := by
  cases r with
  | ok x u => exact h
  | stop t => exact hQ t h

theorem Leads.finish {r : Result Unit} (h : Leads Settled r) (hr : r.finish = .next t) :
    MachineInv t := by
  obtain ⟨w, hw, rfl | ⟨u, rfl, rfl⟩⟩ := r.finish_next <;> rw [hr] at hw <;> cases hw
  · exact h
  · exact (kept_settled.complete u h).machineInv

theorem Leads.pause {r : Result Unit} (h : Leads Settled r) (hr : r.pause = .next t) :
    MachineInv t := by
  cases r <;> cases hr
  · exact Settled.machineInv h
  · exact h

/-- A list of micro-steps, each of which keeps what stands for the invariant where the host is
denied. -/
theorem runMicros_leads {fs : List (State → State)} (hQ : Kept Q) (hstanding : ∀ u, Q u → Standing u)
    (hmicro : ∀ f ∈ fs, ∀ u, Q u → Q (f u)) (h : Q s) :
    Leads (fun u => u = State.runGiven fs s ∧ Q u) (State.runMicros fs s) := by
  have hholds := hQ.runMicros hmicro h
  rcases State.runMicros_cases fs s with ⟨t, hr, hd⟩ | hr <;> rw [hr] at hholds ⊢
  · exact (hstanding t hholds).machineInv hd
  · exact ⟨rfl, hholds⟩

end

/-- After INIT, between two commands, at the arbiter's position `phase`. -/
structure ReadyAt (phase : ArbPhase) (s : State) : Prop where
  standing : Standing s
  initialised : s.initialised = true
  ready : InvReady s
  phase : s.arbPhase = phase

theorem ReadyAt.settled {phase : ArbPhase} {s : State} (h : ReadyAt phase s) : Settled s :=
  ⟨h.standing, fun _ => h.ready, fun hi => by rw [h.initialised] at hi; cases hi⟩

theorem kept_readyAt (phase : ArbPhase) : Kept (ReadyAt phase) := by
  have hkept : ∀ {u v : State}, Settled v → v.initialised = u.initialised →
      v.arbPhase = u.arbPhase → ReadyAt phase u → ReadyAt phase v := fun hv hi hp hu =>
    ⟨hv.1, hi.trans hu.initialised, hv.2.1 (hi.trans hu.initialised), hp.trans hu.phase⟩
  exact ⟨fun u h => hkept (kept_settled.others u h.settled) (by simp) (by simp) h,
    fun u h => hkept (kept_settled.spend u h.settled) (by simp) (by simp) h,
    fun c u h => hkept (kept_settled.raise c u h.settled) (by simp) (by simp) h,
    fun u h => hkept (kept_settled.complete u h.settled) (by simp) (by simp) h⟩

theorem requireInit_leads {s : State} (h : Settled s) (hphase : s.arbPhase = .idle) :
    Leads (ReadyAt .idle) s.requireInit := by
  have hnext := kept_settled.spend _ (kept_settled.others s h)
  rcases s.requireInit_cases with ⟨-, hr⟩ | ⟨-, hr⟩ | ⟨hinit, hr⟩ <;> rw [hr]
  · exact (kept_settled.others s h).machineInv
  · exact (kept_settled.raise _ _ hnext).machineInv
  · exact ⟨hnext.1, by simpa using hinit, hnext.2.1 (by simpa using hinit), by simpa using hphase⟩

end Sys2Proof.Safety
end

section
namespace Sys2Proof.Safety

open Sys2Proof.Machine

/-! ### Inside a command -/

/-- A point inside a command: memory is canonical, no cycle is in flight, and `Q`. -/
def Point (Q : State → Prop) (u : State) : Prop :=
  Memory.wf u.mem = true ∧ u.linkBusy = false ∧ Q u

theorem kept_point {Q : State → Prop} (hQ : Kept Q) : Kept (Point Q) where
  others u := fun ⟨hwf, hbusy, hq⟩ =>
    ⟨State.others_keeps_wf hwf, by simpa using hbusy, hQ.others u hq⟩
  spend u := fun ⟨hwf, hbusy, hq⟩ => ⟨by simpa using hwf, by simpa using hbusy, hQ.spend u hq⟩
  raise c u := fun ⟨hwf, hbusy, hq⟩ => ⟨by simpa using hwf, by simpa using hbusy, hQ.raise c u hq⟩
  complete u := fun ⟨hwf, hbusy, hq⟩ => ⟨hwf, hbusy, hQ.complete u hq⟩

theorem kept_acked (v : Bool) : Kept fun u => u.acked = v := by
  constructor <;> simp [State.acked]

theorem kept_busen (v : Bool) : Kept fun u => u.busen = v := by
  constructor <;> simp

theorem kept_initialised (v : Bool) : Kept fun u => u.initialised = v := by
  constructor <;> simp

theorem Point.standing_of_not_acked {u : State} (h : Point (fun u => u.acked = false) u) :
    Standing u := ⟨h.1, h.2.1, fun _ hb => by rw [h.2.2] at hb; exact absurd hb.2 (by simp)⟩

theorem Point.standing_of_paused {u : State} (h : Point (fun u => u.busen = false) u) :
    Standing u := ⟨h.1, h.2.1, fun _ hb => by rw [h.2.2] at hb; exact absurd hb.1 (by simp)⟩

theorem Point.standing_of_not_initialised {u : State} (h : Point (fun u => u.initialised = false) u) :
    Standing u := ⟨h.1, h.2.1, fun hi => by rw [h.2.2] at hi; cases hi⟩

/-- In the idle position the card is off the bus. -/
theorem ReadyAt.not_acked {u : State} (h : ReadyAt .idle u) :
    Point (fun u => u.acked = false) u := by
  obtain ⟨⟨hwf, hbusy, -⟩, -, hready, hphase⟩ := h
  obtain ⟨-, -, -, -, -, -, -, -, -, -, -, -, -, hidle, -⟩ := hready
  exact ⟨hwf, hbusy, (hidle hphase).1⟩

theorem Leads.mono {α : Type} {Q R : State → Prop} {r : Result α} (h : Leads Q r)
    (hQR : ∀ u, Q u → R u) : Leads R r := by
  cases r with
  | ok x u => exact hQR u h
  | stop t => exact h

/-! ### The commands after INIT, outside a handshake -/

/-- Outside a handshake, micro-steps that leave ACK and INT at 0 lead to where the invariant holds
again, if it holds where they end. -/
theorem ReadyAt.runMicros_leads {u : State} {fs : List (State → State)} (h : ReadyAt .idle u)
    (hmicro : ∀ f ∈ fs, ∀ w, Point (fun w => w.acked = false) w → Point (fun w => w.acked = false) (f w))
    (hint : ∀ f ∈ fs, ∀ w : State, w.int = false → (f w).int = false)
    (hfin : InvReady u → u.initialised = true → u.arbPhase = .idle → u.acked = false →
      (State.runGiven fs u).int = false → InvReady (State.runGiven fs u) ∧
      (State.runGiven fs u).initialised = true ∧ (State.runGiven fs u).arbPhase = .idle) :
    Leads (ReadyAt .idle) (State.runMicros fs u) := by
  refine (Safety.runMicros_leads (kept_point (kept_acked false))
    (fun _ => Point.standing_of_not_acked) hmicro h.not_acked).mono ?_
  rintro w ⟨rfl, hpoint⟩
  have hlow : u.int = false := by
    obtain ⟨-, -, -, -, -, hint, -⟩ := h.ready
    exact hint
  obtain ⟨hready, hinit, hphase⟩ :=
    hfin h.ready h.initialised h.phase h.not_acked.2.2 (runGiven_int hint hlow)
  exact ⟨hpoint.standing_of_not_acked, hinit, hready, hphase⟩

theorem stopSteps_leads {u : State} (h : ReadyAt .idle u) :
    Leads (ReadyAt .idle) (State.runMicros stopSteps u) := by
  refine h.runMicros_leads (by simp +contextual [stopSteps, Point, State.acked])
    (by simp [stopSteps]) fun _ _ _ _ _ => ?_
  simp_all [InvReady, stopSteps, State.acked, State.isRunning]

theorem hrstSteps_leads {u : State} (h : ReadyAt .idle u) :
    Leads (ReadyAt .idle) (State.runMicros hrstSteps u) := by
  refine h.runMicros_leads (by simp +contextual [hrstSteps, guestPulseSteps, Point, State.acked])
    (by simp [hrstSteps, guestPulseSteps]) fun _ _ _ _ _ => ?_
  simp_all [InvReady, hrstSteps, guestPulseSteps, State.acked, State.isRunning]

theorem sspdSteps_leads {u : State} (x : Speed) (h : ReadyAt .idle u) :
    Leads (ReadyAt .idle) (State.runMicros (sspdSteps x) u) := by
  refine h.runMicros_leads (by simp +contextual [sspdSteps, Point, State.acked])
    (by simp [sspdSteps]) fun _ _ _ _ _ => ?_
  simp_all [InvReady, sspdSteps, State.acked, State.isRunning]

theorem sarchSteps_leads {u : State} (x : Arch) (h : ReadyAt .idle u) :
    Leads (ReadyAt .idle) (State.runMicros (sarchSteps x) u) := by
  refine h.runMicros_leads (by simp +contextual [sarchSteps, Point, State.acked])
    (by simp [sarchSteps]) fun _ _ _ _ _ => ?_
  simp_all [InvReady, sarchSteps, State.acked, State.isRunning]

theorem releaseSteps_leads {u : State} (h : ReadyAt .idle u) :
    Leads (ReadyAt .idle) (State.runMicros (releaseSteps u.cfg) u) := by
  cases hbuild : u.cfg.tickBuildEnabled
  all_goals
    refine h.runMicros_leads (by simp +contextual [releaseSteps, hbuild, Point, State.acked])
      (by simp [releaseSteps, hbuild]) fun _ _ _ _ _ => ?_
    simp_all [InvReady, releaseSteps, State.acked, State.isRunning]

/-! ### INIT -/

theorem InitDone.invReady {u v : State} (h : InitDone u v) (hdb : u.doorbellIe = false) :
    InvReady v := by
  obtain ⟨⟨harch, hspeed, h0, h1⟩, hcfg, hstatus, hlines, hint, hwires⟩ := h
  simp_all [InvReady, State.isRunning]

theorem initSteps_leads {u : State} (h : Settled u) (hinit : u.initialised = false) :
    Leads Settled (State.runMicros (initSteps u.cfg u.setting0 u.setting1) u) := by
  have hdone := initDone_runGiven u
  obtain ⟨⟨hwf, hbusy, -⟩, -, hpower⟩ := h
  obtain ⟨-, -, -, -, -, hdb, -⟩ := hpower hinit
  have hready := hdone.invReady hdb
  obtain ⟨front, heq, hfront⟩ := initSteps_concat u.cfg u.setting0 u.setting1
  rw [heq, State.runGiven_append] at hdone hready
  rw [heq, State.runMicros_append]
  have hmicro : ∀ f ∈ front, ∀ w, Point (fun w => w.initialised = false) w →
      Point (fun w => w.initialised = false) (f w) := by
    refine hfront _ ?_
    constructor
    case flag => intro f v hf; cases f <;> simp_all [Point]
    all_goals simp +contextual [Point]
  refine (runMicros_leads (kept_point (kept_initialised false))
    (fun _ => Point.standing_of_not_initialised) hmicro ⟨hwf, hbusy, hinit⟩).bind ?_
  rintro _ w ⟨hw, hpoint⟩
  rw [← hw] at hdone hready
  have hothers := (kept_point (kept_initialised false)).others w hpoint
  rcases w.turn_cases with ⟨hd, hturn⟩ | ⟨-, hturn⟩ <;> rw [State.runMicros_cons, hturn]
  · exact hothers.standing_of_not_initialised.machineInv (by simpa [HostDenied] using hd)
  · obtain ⟨-, -, -, hinit', -⟩ := hdone.status
    obtain ⟨-, -, hbusen, -⟩ := hdone.lines
    obtain ⟨hwf', hbusy', -⟩ := hothers
    refine ⟨⟨by simpa using hwf', by simpa using hbusy', fun _ hb => ?_⟩, fun _ => hready, fun hi => ?_⟩
    · exact absurd (hbusen.symm.trans hb.1) (by simp)
    · exact absurd (hinit'.symm.trans hi) (by simp)

theorem exec_init_machineInv {s t : State} (h : Settled s) (hexec : exec .init s = .next t) :
    MachineInv t := by
  refine Leads.finish (Leads.bind (Leads.of_holds (kept_settled.turn h) fun _ => Settled.machineInv)
    fun _ u hu => ?_) hexec
  split
  · exact (kept_settled.raise _ u hu).machineInv
  · next hinit => exact initSteps_leads hu (by simpa using hinit)

/-! ### HRST, RUN, STOP, SARCH and SSPD -/

/-- A command that is the INITIALISED check and a body that leads back to where the invariant holds.
-/
theorem machineInv_of_body {s t : State} {body : State → Result Unit} (h : Settled s)
    (hphase : s.arbPhase = .idle) (hbody : ∀ u, ReadyAt .idle u → Leads (ReadyAt .idle) (body u))
    (hexec : (s.requireInit.bind fun _ u => body u).finish = .next t) : MachineInv t :=
  ((requireInit_leads h hphase).bind fun _ u hu =>
    (hbody u hu).mono fun _ hw => hw.settled).finish hexec

theorem ReadyAt.writeEffect {phase : ArbPhase} {u : State} (a : Addr) (v : Byte)
    (h : ReadyAt phase u) : ReadyAt phase (u.writeEffect a v) := by
  have hsettled := h.settled.writeEffect a v
  have hinit : (u.writeEffect a v).initialised = true := by simpa using h.initialised
  exact ⟨hsettled.1, hinit, hsettled.2.1 hinit, by simpa using h.phase⟩

theorem run_leads (u : State) (h : ReadyAt .idle u) :
    Leads (ReadyAt .idle) ((State.writeBytes (bootBytes u.cfg u.arch) u).bind fun _ w =>
      State.runMicros (releaseSteps w.cfg) w) :=
  (Leads.of_holds ((kept_readyAt .idle).writeBytes (fun p _ _ _ => ReadyAt.writeEffect p.1 p.2) h)
    fun _ hw => hw.settled.machineInv).bind fun _ _ => releaseSteps_leads

theorem sarch_leads (x : Arch) (u : State) (h : ReadyAt .idle u) :
    Leads (ReadyAt .idle) (if u.isRunning && decide (x ≠ u.arch) then
      .stop (u.raise .archSwitchWhileRunning) else State.runMicros (sarchSteps x) u) := by
  split
  · exact (kept_settled.raise _ u h.settled).machineInv
  · exact sarchSteps_leads x h

end Sys2Proof.Safety
end

section
namespace Sys2Proof.Safety

open Sys2Proof.Machine

/-! ### POLL (45_expansion_arbiter R300 to R313) -/

theorem ReadyAt.int {phase : ArbPhase} {u : State} (h : ReadyAt phase u) : u.int = false := by
  obtain ⟨-, -, -, -, -, hint, -⟩ := h.ready
  exact hint

/-- In the held position the guest is off the bus. -/
theorem ReadyAt.paused {u : State} (h : ReadyAt .acked u) : Point (fun u => u.busen = false) u := by
  obtain ⟨⟨hwf, hbusy, -⟩, -, hready, hphase⟩ := h
  obtain ⟨-, -, -, -, -, -, -, -, -, -, -, -, -, -, hheld⟩ := hready
  exact ⟨hwf, hbusy, (hheld hphase).2.1⟩

/-- Micro-steps in two stretches, between which one reason why ACK and BUSEN are not both 1 takes
over from another. -/
theorem runMicros_append_leads {Q R : State → Prop} {fs gs : List (State → State)} {u : State}
    (hfirst : Leads (fun w => w = State.runGiven fs u ∧ Q w) (State.runMicros fs u))
    (hmid : Q (State.runGiven fs u) → R (State.runGiven fs u)) (hR : Kept R)
    (hstanding : ∀ w, R w → Standing w) (hgs : ∀ f ∈ gs, ∀ w, R w → R (f w)) :
    Leads (fun v => v = State.runGiven (fs ++ gs) u ∧ R v) (State.runMicros (fs ++ gs) u) := by
  rw [State.runMicros_append, State.runGiven_append]
  refine hfirst.bind ?_
  rintro _ w ⟨rfl, hw⟩
  exact runMicros_leads hR hstanding hgs (hmid hw)

/-- Handshake entry: the guest is off the bus before ACK is raised (R303). -/
theorem handshakeEntry_leads {u : State} (hport : u.cfg.hasExpansion = true) (h : ReadyAt .idle u) :
    Leads (ReadyAt .acked) (State.runMicros (handshakeEntrySteps u.isRunning) u) := by
  have ⟨_, _, hacked⟩ := h.not_acked
  have hint := runGiven_int (fs := handshakeEntrySteps u.isRunning)
    (by cases u.isRunning <;> simp [handshakeEntrySteps]) h.int
  have hfirst := runMicros_leads (kept_point (kept_acked false))
    (fun _ => Point.standing_of_not_acked) (fs := [State.setFlag .arbWasRunning u.isRunning] ++
      if u.isRunning then [State.drive .busen false] else [])
    (by cases u.isRunning <;> simp +contextual [Point, State.acked]) h.not_acked
  obtain ⟨-, hinit, hready, hphase⟩ := h
  refine (runMicros_append_leads (R := Point fun w => w.busen = false) hfirst ?_
    (kept_point (kept_busen false)) (fun _ => Point.standing_of_paused)
    (by simp +contextual [Point])).mono ?_
  · rintro ⟨hwf, hbusy, -⟩
    refine ⟨hwf, hbusy, ?_⟩
    cases hrun : u.runstate <;> simp_all [InvReady, State.isRunning]
  · rintro v ⟨rfl, hpoint⟩
    refine ⟨hpoint.standing_of_paused, ?_, ?_, ?_⟩
    all_goals
      cases hrun : u.runstate <;>
        simp_all [handshakeEntrySteps, InvReady, State.acked, State.isRunning]

/-- Handshake exit: ACK is released before the guest is back on the bus (R305). -/
theorem handshakeExit_leads {u : State} (h : ReadyAt .acked u) :
    Leads (ReadyAt .idle) (State.runMicros (handshakeExitSteps u.arbWasRunning) u) := by
  have hint := runGiven_int (fs := handshakeExitSteps u.arbWasRunning)
    (by cases u.arbWasRunning <;> simp [handshakeExitSteps]) h.int
  have hfirst := runMicros_leads (kept_point (kept_busen false))
    (fun _ => Point.standing_of_paused) (fs := [State.drive .ack false])
    (by simp +contextual [Point]) h.paused
  obtain ⟨-, hinit, hready, hphase⟩ := h
  have hlead := runMicros_append_leads (R := Point fun w => w.acked = false)
    (gs := (if u.arbWasRunning then [State.drive .busen true] else []) ++
      [State.setArbPhase .idle, State.setFlag .arbWasRunning false]) hfirst
    (fun ⟨hwf, hbusy, _⟩ => ⟨hwf, hbusy, by simp [State.acked]⟩)
    (kept_point (kept_acked false)) (fun _ => Point.standing_of_not_acked)
    (by cases u.arbWasRunning <;> simp +contextual [Point, State.acked])
  rw [handshakeExitSteps, List.append_assoc] at hint ⊢
  refine hlead.mono ?_
  rintro v ⟨rfl, hpoint⟩
  refine ⟨hpoint.standing_of_not_acked, ?_, ?_, ?_⟩
  all_goals
    cases hrun : u.runstate <;> simp_all [InvReady, State.acked, State.isRunning]

/-- A write cycle where the card is off the bus and the guest is paused. -/
theorem writeCycle_leads {u : State} (a : Addr) (v : Byte) (h : Point (fun u => u.acked = false) u)
    (hbusen : u.busen = false) :
    Leads (fun w => w = u.others.spend.writeEffect a v ∧ Point (fun w => w.acked = false) w)
      (u.writeCycle a v) := by
  have hkept := kept_point (kept_acked false)
  have hothers := hkept.others u h
  have hcheck : u.linkCheck = none :=
    State.linkCheck_none h.2.1 ((State.busFree_iff u).2 ⟨hbusen, h.2.2⟩)
  rcases u.writeCycle_cases a v with ⟨hd, hr⟩ | ⟨c, hc, -⟩ | ⟨-, hr⟩
  · rw [hr]
    exact hothers.standing_of_not_acked.machineInv (by simpa [HostDenied] using hd)
  · rw [hcheck] at hc; cases hc
  · rw [hr]
    obtain ⟨hwf, -, hacked⟩ := hkept.spend _ hothers
    refine ⟨rfl, ?_, by simp, by simpa [State.acked] using hacked⟩
    rw [State.writeEffect_mem]
    split
    · exact Memory.wf_writeAt a v hwf
    · exact hwf

theorem deliverDoorbell_leads {u : State} (hrun : u.isRunning = true) (h : ReadyAt .idle u) :
    Leads (ReadyAt .idle) u.deliverDoorbell := by
  have hkept := kept_point (kept_acked false)
  have hstanding := fun u => Point.standing_of_not_acked (u := u)
  have hna := h.not_acked
  obtain ⟨-, hinit, hready, hphase⟩ := h
  refine (runMicros_leads hkept hstanding (by simp +contextual [Point, State.acked]) hna).bind ?_
  rintro _ w ⟨hw, hpoint⟩
  refine (writeCycle_leads _ _ hpoint (by simp [hw])).bind ?_
  rintro _ x ⟨hx, hpoint⟩
  refine (runMicros_leads hkept hstanding (by simp +contextual [Point, State.acked]) hpoint).mono ?_
  rintro v ⟨hv, hpoint⟩
  have hint : v.int = false := hv ▸ runGiven_int (fs := [State.emit (.intPulse .doorbell)])
    (s := State.drive .int false _) (by simp) (by simp)
  refine ⟨hstanding _ hpoint, ?_, ?_, ?_⟩
  all_goals
    subst hv hx hw
    simp_all [InvReady, State.acked, State.isRunning]

theorem serviceDoorbell_leads {u : State} (h : ReadyAt .idle u) :
    Leads (ReadyAt .idle) u.serviceDoorbell := by
  have hmachine : ∀ w, ReadyAt .idle w → MachineInv w := fun w hw => hw.settled.machineInv
  refine (Leads.of_holds ((kept_readyAt .idle).turn h) hmachine).bind fun _ w hw => ?_
  split
  · refine Leads.bind (Q := ReadyAt .idle) ?_ fun _ v hv => ?_
    · split
      · next hrun => exact deliverDoorbell_leads hrun hw
      · exact hw
    · exact hv.runMicros_leads (by simp +contextual [Point, State.acked]) (by simp)
        fun _ _ _ _ _ => by simp_all [InvReady, State.acked, State.isRunning]
  · exact hw

theorem kept_port : Kept fun u => u.cfg.hasExpansion = true := by
  constructor <;> simp

theorem exec_poll_machineInv {s t : State} (h : Settled s) (hexec : exec .poll s = .next t) :
    MachineInv t := by
  change execPoll s = .next t at hexec
  have hmachine : ∀ p w, ReadyAt p w → MachineInv w := fun _ w hw => hw.settled.machineInv
  have hservice : ∀ w, ReadyAt .idle w → w.serviceDoorbell.finish = .next t → MachineInv t :=
    fun w hw => ((serviceDoorbell_leads hw).mono fun _ hv => hv.settled).finish
  unfold execPoll at hexec
  split at hexec
  next hphase =>
    simp only [State.resumeHandshake] at hexec
    split at hexec
    · cases hexec
      exact (kept_settled.others s h).machineInv
    · have hheld : ReadyAt .acked s := by
        obtain ⟨hstanding, hready, hpower⟩ := h
        cases hinit : s.initialised with
        | true => exact ⟨hstanding, hinit, hready hinit, hphase⟩
        | false =>
          obtain ⟨-, -, -, -, -, -, hidle, -⟩ := hpower hinit
          rw [hphase] at hidle; cases hidle
      exact ((Leads.of_holds ((kept_readyAt .acked).turn hheld) (hmachine _)).bind fun _ u hu =>
        (handshakeExit_leads hu).bind fun _ w hw =>
          (serviceDoorbell_leads hw).mono fun _ hv => hv.settled).finish hexec
  next hphase =>
    have hchecked := requireInit_leads h hphase
    split at hexec
    next u hu =>
      cases hexec
      rwa [hu] at hchecked
    next u hu =>
      rw [hu] at hchecked
      have hu : ReadyAt .idle u := hchecked
      split at hexec
      next hport =>
        have hkept := kept_and (kept_readyAt .idle) kept_port
        have hturn := hkept.turn ⟨hu, hport⟩
        split at hexec
        next w hw =>
          cases hexec
          rw [hw] at hturn
          exact hmachine _ _ hturn.1
        next w hw =>
          rw [hw] at hturn
          split at hexec
          · exact ((handshakeEntry_leads hturn.2 hturn.1).mono fun _ hv => hv.settled).pause hexec
          · exact hservice w hturn.1 hexec
      next =>
        cases hexec
        exact (kept_settled.complete u hu.settled).machineInv

/-! ### Every command, every step -/

/-- A command fetched between two commands keeps the invariant. -/
theorem exec_machineInv {i : Instr} {s t : State} (h : Settled s) (hphase : s.arbPhase = .idle)
    (hexec : exec i s = .next t) : MachineInv t := by
  have hcycles : isStore i = true ∨ isRead i = true → MachineInv t := fun hi =>
    (exec_cycles_keeps kept_settled (fun a v _ => Settled.writeEffect a v)
      (fun a _ => Settled.readEffect a) (fun v _ => Settled.setQ v)
      (fun buf b _ => Settled.setString buf b) hi h hexec).machineInv
  cases i with
  | wrb _ _ | wrw _ _ | wrl _ _ | wrt _ _ | vwrb _ _ => exact hcycles (.inl rfl)
  | rdb _ | rdw _ | rds _ _ | vxl _ | vrdb _ => exact hcycles (.inr rfl)
  | init => exact exec_init_machineInv h hexec
  | hrst => exact machineInv_of_body h hphase (fun _ => hrstSteps_leads) hexec
  | run => exact machineInv_of_body h hphase run_leads hexec
  | stop => exact machineInv_of_body h hphase (fun _ => stopSteps_leads) hexec
  | sarch x => exact machineInv_of_body h hphase (sarch_leads x) hexec
  | sspd x => exact machineInv_of_body h hphase (fun _ => sspdSteps_leads x) hexec
  | poll => exact exec_poll_machineInv h hexec

/-- Settles O18: the other agents keep the invariant, and a command leads from one settled state to
another or stands, its host denied, where the invariant still says what holds at every point. -/
theorem stepKeepsMachineInvariant : Obligations.StepKeepsMachineInvariant := by
  intro s t h hstep
  rcases step_cases hstep with ⟨-, rfl⟩ | ⟨⟨-, -, hd⟩, hcases⟩
  · exact h.others
  have hsettled : Settled s := ⟨((machineInv_iff s).1 h).1, ((machineInv_iff s).1 h).2 hd⟩
  rcases hcases with ⟨-, hexec⟩ | ⟨hphase, i, rest, -, hexec⟩ | ⟨-, r, -, -, rfl⟩
  · exact exec_poll_machineInv hsettled hexec
  · exact exec_machineInv (hsettled.fetch rest i) (by simpa using hphase) hexec
  · exact h.markRefused r

end Sys2Proof.Safety
end

section
namespace Sys2Proof.Machine

open Sys2Proof.Safety

/-! ### The plan of a POLL (45_expansion_arbiter R300 to R313) -/

/-- A command's micro-steps, each after a boundary: some that keep CPOS and FAULT, then the one that
completes it, raises its fault or leaves it in the hold. -/
structure Plan where
  front : List (State → State)
  last : State → State

def Plan.steps (p : Plan) : List (State → State) := p.front ++ [p.last]

/-- The plan after further micro-steps. -/
def Plan.after (fs : List (State → State)) (p : Plan) : Plan := { p with front := fs ++ p.front }

@[simp] theorem Plan.steps_after (fs : List (State → State)) (p : Plan) :
    (p.after fs).steps = fs ++ p.steps := List.append_assoc fs p.front [p.last]

@[simp] theorem Plan.after_last (fs : List (State → State)) (p : Plan) :
    (p.after fs).last = p.last := rfl

@[simp] theorem Plan.after_front (fs : List (State → State)) (p : Plan) :
    (p.after fs).front = fs ++ p.front := rfl

/-- The end of part 2: the latch is cleared and the command counted (R313). -/
def clearAndComplete (s : State) : State := (s.setFlag .doorbellLatch false).complete

/-- The micro-steps of a delivery whose cycle can run (R311). -/
def deliverySteps (c : Config) : List (State → State) :=
  [State.drive .busen false, State.writeEffect c.mbxExpFlag Config.expFlagValue,
    State.drive .busen true, State.drive .int true, State.drive .int false,
    State.emit (.intPulse .doorbell)]

/-- Part 2 of POLL for a latch found set or not, a guest running or not, and what `linkCheck` says
at the cycle of a delivery. A test is a micro-step that changes nothing. -/
def servicePlan (c : Config) : (latched running : Bool) → (check : Option FaultCode) → Plan
  | false, _, _ => ⟨[], State.complete⟩
  | true, false, _ => ⟨[id], clearAndComplete⟩
  | true, true, none => ⟨id :: deliverySteps c, clearAndComplete⟩
  | true, true, some code => ⟨[id, State.drive .busen false], State.raise code⟩

/-- Handshake entry but for the step into the hold (R303). -/
def entryFront (wasRunning : Bool) : List (State → State) :=
  [State.setFlag .arbWasRunning wasRunning] ++
  (if wasRunning then [State.drive .busen false] else []) ++ [State.drive .ack true]

/-- The micro-steps of POLL from `s`, unless it holds a handshake that it does not end (R304). -/
def pollPlan (s : State) : Plan :=
  match s.arbPhase with
  | .acked =>
    (servicePlan s.cfg (State.waits (if s.arbWasRunning then 6 else 5) s).doorbellLatch s.isRunning
      (State.drive .busen false (s.drive .ack false)).linkCheck).after
      (id :: handshakeExitSteps s.arbWasRunning)
  | .idle =>
    if s.initialised then
      if s.cfg.hasExpansion then
        if (State.waits 2 s).req then ⟨[id, id] ++ entryFront s.isRunning, State.setArbPhase .acked⟩
        else
          (servicePlan s.cfg (State.waits 3 s).doorbellLatch s.isRunning
            (s.drive .busen false).linkCheck).after [id, id]
      else ⟨[], State.complete⟩
    else ⟨[], State.raise .notInitialised⟩

/-! ### A computation as a list of micro-steps -/

/-- A list of micro-steps that runs to its end is where `runGiven` says. -/
theorem State.runMicros_bind_congr {α : Type} {fs : List (State → State)} {s : State}
    {k l : Unit → State → Result α} (h : k () (State.runGiven fs s) = l () (State.runGiven fs s)) :
    (State.runMicros fs s).bind k = (State.runMicros fs s).bind l := by
  rcases State.runMicros_cases fs s with ⟨t, hr, -⟩ | hr <;> rw [hr]
  · rfl
  · exact h

/-- CPOS is counted in the micro-step that completes the command (10_state R22). -/
theorem State.runMicros_finish (fs : List (State → State)) (f : State → State) (s : State) :
    (State.runMicros (fs ++ [f]) s).finish =
      (State.runMicros (fs ++ [fun u => (f u).complete]) s).pause := by
  rw [State.runMicros_append, State.runMicros_append]
  rcases State.runMicros_cases fs s with ⟨t, hr, -⟩ | hr <;> rw [hr]
  · rfl
  · rcases (State.runGiven fs s).turn_cases with ⟨-, ht⟩ | ⟨-, ht⟩ <;>
      simp [ht]

/-- A write cycle that can run is one micro-step. -/
theorem State.writeCycle_eq_runMicros {s : State} (a : Addr) (v : Byte) (h : s.linkCheck = none) :
    s.writeCycle a v = State.runMicros [State.writeEffect a v] s := by
  rcases s.turn_cases with ⟨-, ht⟩ | ⟨-, ht⟩ <;> simp [State.writeCycle, ht, h]

/-- A write cycle that raises is a micro-step with nothing after it. -/
theorem State.writeCycle_bind_pause {s : State} {c : FaultCode} {k : Unit → State → Result Unit}
    (a : Addr) (v : Byte) (h : s.linkCheck = some c) :
    ((s.writeCycle a v).bind k).finish = (State.runMicros [State.raise c] s).pause := by
  rcases s.turn_cases with ⟨-, ht⟩ | ⟨-, ht⟩ <;> simp [State.writeCycle, ht, h]

end Sys2Proof.Machine
end

section
namespace Sys2Proof.Machine

open Sys2Proof.Safety

/-! ### POLL runs its plan -/

/-- A delivery whose cycle can run. -/
theorem State.deliverDoorbell_eq_runMicros {s : State}
    (h : (s.drive .busen false).linkCheck = none) :
    s.deliverDoorbell = State.runMicros (deliverySteps s.cfg) s := by
  have hcheck : (State.runGiven [State.drive .busen false] s).linkCheck = none := by
    simpa [State.linkCheck, State.busFree, State.acked] using h
  rw [deliverySteps, ← List.singleton_append, State.runMicros_append]
  refine State.runMicros_bind_congr ?_
  rw [State.writeCycle_eq_runMicros _ _ hcheck, ← State.runMicros_append]
  simp

/-- A delivery whose cycle raises (41_bus_link R140). -/
theorem State.deliverDoorbell_bind_pause {s : State} {c : FaultCode}
    {k : Unit → State → Result Unit} (h : (s.drive .busen false).linkCheck = some c) :
    (s.deliverDoorbell.bind k).finish =
      (State.runMicros [State.drive .busen false, State.raise c] s).pause := by
  have hcheck : (State.runGiven [State.drive .busen false] s).linkCheck = some c := by
    simpa [State.linkCheck, State.busFree, State.acked] using h
  rw [← List.singleton_append, State.runMicros_append, State.deliverDoorbell, Result.bind_assoc]
  rcases State.runMicros_cases [State.drive .busen false] s with ⟨t, hr, -⟩ | hr <;> rw [hr]
  · rfl
  · rw [Result.bind_ok, Result.bind_assoc, State.writeCycle_bind_pause _ _ hcheck, Result.bind_ok]

/-- A turn is a micro-step that changes nothing. -/
theorem State.turn_eq_runMicros (s : State) : s.turn = State.runMicros [id] s := by
  rcases s.turn_cases with ⟨-, ht⟩ | ⟨-, ht⟩ <;> simp [ht]

/-- Micro-steps, then a computation that is a list of micro-steps itself where they end. -/
theorem State.runMicros_bind_pause {s : State} {k : Unit → State → Result Unit}
    {fs gs : List (State → State)}
    (h : (k () (State.runGiven fs s)).finish = (State.runMicros gs (State.runGiven fs s)).pause) :
    ((State.runMicros fs s).bind k).finish = (State.runMicros (fs ++ gs) s).pause := by
  rw [State.runMicros_append]
  rcases State.runMicros_cases fs s with ⟨t, hr, -⟩ | hr <;> rw [hr]
  · rfl
  · exact h

theorem State.turn_bind_pause {s : State} {k : Unit → State → Result Unit}
    {gs : List (State → State)}
    (h : (k () s.others.spend).finish = (State.runMicros gs s.others.spend).pause) :
    (s.turn.bind k).finish = (State.runMicros (id :: gs) s).pause := by
  rw [State.turn_eq_runMicros]
  exact State.runMicros_bind_pause (fs := [id]) h

/-- Part 2 of POLL is its plan. -/
theorem State.serviceDoorbell_eq_plan (s : State) :
    s.serviceDoorbell.finish = (State.runMicros (servicePlan s.cfg s.others.doorbellLatch
      s.isRunning (s.drive .busen false).linkCheck).steps s).pause := by
  have hrunning : s.others.spend.isRunning = s.isRunning := by simp [State.isRunning]
  have hcheck : (s.others.spend.drive .busen false).linkCheck =
      (s.drive .busen false).linkCheck := by
    simp [State.linkCheck, State.busFree, State.acked]
  have hcfg : s.others.spend.cfg = s.cfg := by simp
  cases hlatch : s.others.doorbellLatch with
  | false =>
    rcases s.turn_cases with ⟨-, ht⟩ | ⟨-, ht⟩ <;>
      simp [State.serviceDoorbell, servicePlan, Plan.steps, ht, hlatch]
  | true =>
    cases hrun : s.isRunning with
    | false =>
      refine State.turn_bind_pause ?_
      rw [State.spend_doorbellLatch, hlatch, if_pos rfl, hrunning, hrun]
      exact State.runMicros_finish [] _ _
    | true =>
      cases hc : (s.drive .busen false).linkCheck with
      | none =>
        refine State.turn_bind_pause (gs := deliverySteps s.cfg ++ [clearAndComplete]) ?_
        rw [State.spend_doorbellLatch, hlatch, if_pos rfl, hrunning, hrun, if_pos rfl,
          State.deliverDoorbell_eq_runMicros (hcheck.trans hc), ← State.runMicros_append, hcfg]
        exact State.runMicros_finish _ _ _
      | some code =>
        refine State.turn_bind_pause (gs := [State.drive .busen false, State.raise code]) ?_
        rw [State.spend_doorbellLatch, hlatch, if_pos rfl, hrunning, hrun, if_pos rfl]
        exact State.deliverDoorbell_bind_pause (hcheck.trans hc)

/-- Two states in which the doorbell is the same, and one in which the host has gone on. -/
theorem AgreeDoorbell.trans {s t u : State} (h : AgreeDoorbell s t) (htu : AgreeDoorbell t u) :
    AgreeDoorbell s u := by
  obtain ⟨⟨⟨h1, h2, h3, h4⟩, h5, h6⟩, h7, h8, h9, h10, h11, h12⟩ := h
  obtain ⟨⟨⟨k1, k2, k3, k4⟩, k5, k6⟩, k7, k8, k9, k10, k11, k12⟩ := htu
  exact ⟨⟨⟨k1.trans h1, k2.trans h2, k3.trans h3, k4.trans h4⟩, k5.trans h5, k6.trans h6⟩,
    k7.trans h7, k8.trans h8, k9.trans h9, k10.trans h10, k11.trans h11, k12.trans h12⟩

theorem AgreeDoorbell.refl (s : State) : AgreeDoorbell s s := by
  simp [AgreeDoorbell, AgreeInputs, SameInputs]

/-- What a micro-step of POLL before its last leaves alone. -/
structure Calm (u v : State) : Prop where
  cpos : v.cpos = u.cpos
  fault : v.fault = u.fault
  doorbell : AgreeDoorbell u v

theorem Calm.refl (u : State) : Calm u u := ⟨rfl, rfl, .refl u⟩

theorem calm_spend (u : State) : Calm u u.spend :=
  ⟨by simp, by simp, by simp [AgreeDoorbell, AgreeInputs, SameInputs]⟩

theorem calm_setWasRunning (v : Bool) (u : State) : Calm u (State.setFlag .arbWasRunning v u) :=
  ⟨rfl, rfl, .refl u⟩

theorem calm_setArbPhase (v : ArbPhase) (u : State) : Calm u (State.setArbPhase v u) :=
  ⟨rfl, rfl, .refl u⟩

theorem calm_emit (e : Event) (u : State) : Calm u (State.emit e u) := ⟨rfl, rfl, .refl u⟩

theorem calm_drive (l : Line) (v : Bool) (u : State) : Calm u (State.drive l v u) :=
  ⟨by simp, by simp, by simp [AgreeDoorbell, AgreeInputs, SameInputs]⟩

theorem calm_writeEffect (a : Addr) (v : Byte) (u : State) : Calm u (State.writeEffect a v u) :=
  ⟨by simp, by simp, by simp [AgreeDoorbell, AgreeInputs, SameInputs]⟩

theorem calm_entryFront (w : Bool) : ∀ f ∈ entryFront w, ∀ u, Calm u (f u) := by
  cases w <;> simp [entryFront, calm_setWasRunning, calm_drive]

theorem calm_exitSteps (w : Bool) : ∀ f ∈ handshakeExitSteps w, ∀ u, Calm u (f u) := by
  cases w <;> simp [handshakeExitSteps, calm_setWasRunning, calm_drive, calm_setArbPhase]

theorem calm_servicePlan (c : Config) (latched running : Bool) (check : Option FaultCode) :
    ∀ f ∈ (servicePlan c latched running check).front, ∀ u, Calm u (f u) := by
  unfold servicePlan
  split <;> simp [deliverySteps, Calm.refl, calm_drive, calm_writeEffect, calm_emit]

theorem calm_pollPlan (s : State) : ∀ f ∈ (pollPlan s).front, ∀ u, Calm u (f u) := by
  unfold pollPlan
  split
  · simp only [Plan.after_front, List.cons_append, List.forall_mem_cons, List.forall_mem_append]
    exact ⟨.refl, calm_exitSteps _, calm_servicePlan _ _ _ _⟩
  · split_ifs
    · simpa using ⟨Calm.refl, calm_entryFront s.isRunning⟩
    · simpa using ⟨Calm.refl, calm_servicePlan _ _ _ _⟩
    · simp
    · simp

/-- What a boundary on either side and the host's own micro-steps keep of two states, as many
boundaries on the one side as there are micro-steps on the other keep. -/
theorem State.runGiven_waits {R : State → State → Prop} {fs : List (State → State)} {k : Nat}
    {s u : State} (others : ∀ a b, R a b → R a.others b.others) (spend : ∀ a b, R a b → R a b.spend)
    (micro : ∀ f ∈ fs, ∀ a b, R a b → R a (f b)) (h : R (State.waits k s) u) :
    R (State.waits (k + fs.length) s) (State.runGiven fs u) := by
  induction fs generalizing k u with
  | nil => exact h
  | cons f fs ih =>
    rw [List.forall_mem_cons] at micro
    have hnext : R (State.waits (k + 1) s) (f u.others.spend) := by
      rw [← State.others_waits]
      exact micro.1 _ _ (spend _ _ (others _ _ h))
    rw [List.length_cons, Nat.add_comm fs.length, ← Nat.add_assoc]
    exact ih micro.2 hnext

theorem State.runGiven_agreeDoorbell {fs : List (State → State)} {k : Nat} {s u : State}
    (hfs : ∀ f ∈ fs, ∀ u, Calm u (f u)) (h : AgreeDoorbell (State.waits k s) u) :
    AgreeDoorbell (State.waits (k + fs.length) s) (State.runGiven fs u) :=
  State.runGiven_waits (fun _ _ => AgreeDoorbell.others)
    (fun _ b hab => hab.trans (calm_spend b).doorbell)
    (fun f hf _ b hab => hab.trans (hfs f hf b).doorbell) h

/-! ### What the plan is, by what the host finds -/

section

variable {s : State}

theorem pollPlan_of_not_initialised (hphase : s.arbPhase = .idle) (hinit : s.initialised = false) :
    pollPlan s = ⟨[], State.raise .notInitialised⟩ := by simp [pollPlan, hphase, hinit]

theorem pollPlan_of_noPort (hphase : s.arbPhase = .idle) (hinit : s.initialised = true)
    (hport : s.cfg.hasExpansion = false) : pollPlan s = ⟨[], State.complete⟩ := by
  simp [pollPlan, hphase, hinit, hport]

theorem entryFront_append (w : Bool) :
    entryFront w ++ [State.setArbPhase .acked] = handshakeEntrySteps w := by
  simp [entryFront, handshakeEntrySteps]

theorem pollPlan_of_request (hphase : s.arbPhase = .idle) (hinit : s.initialised = true)
    (hport : s.cfg.hasExpansion = true) (hreq : (State.waits 2 s).req = true) :
    (pollPlan s).steps = [id, id] ++ handshakeEntrySteps s.isRunning := by
  simp [pollPlan, hphase, hinit, hport, hreq, Plan.steps, entryFront_append]

theorem pollPlan_of_no_request (hphase : s.arbPhase = .idle) (hinit : s.initialised = true)
    (hport : s.cfg.hasExpansion = true) (hreq : (State.waits 2 s).req = false) :
    pollPlan s = (servicePlan s.cfg (State.waits 3 s).doorbellLatch s.isRunning
      (s.drive .busen false).linkCheck).after [id, id] := by
  simp [pollPlan, hphase, hinit, hport, hreq]

theorem pollPlan_of_held (hphase : s.arbPhase = .acked) :
    pollPlan s = (servicePlan s.cfg (State.waits (if s.arbWasRunning then 6 else 5) s).doorbellLatch
      s.isRunning (State.drive .busen false (s.drive .ack false)).linkCheck).after
      (id :: handshakeExitSteps s.arbWasRunning) := by simp [pollPlan, hphase]

/-- POLL past its check and its sample of REQ. -/
theorem exec_poll_of_sampled {gs : List (State → State)} (hphase : s.arbPhase = .idle)
    (hinit : s.initialised = true) (hport : s.cfg.hasExpansion = true)
    (h : ∀ u, u = State.runGiven [id, id] s →
      (if u.req then (State.runMicros (handshakeEntrySteps u.isRunning) u).pause
        else u.serviceDoorbell.finish) = (State.runMicros gs u).pause) :
    exec .poll s = (State.runMicros ([id, id] ++ gs) s).pause := by
  change execPoll s = _
  have hsampled := h _ rfl
  rcases s.turn_cases with ⟨-, ht⟩ | ⟨-, ht⟩
  · simp [execPoll, hphase, State.requireInit, ht]
  · rcases s.others.spend.turn_cases with ⟨-, hu⟩ | ⟨-, hu⟩
    · simp [execPoll, hphase, State.requireInit, ht, hinit, hport, hu]
    · simpa [execPoll, hphase, State.requireInit, ht, hinit, hport, hu] using hsampled

/-- Part 2 of POLL where the doorbell, the guest and the link are as `s` says. -/
theorem serviceDoorbell_eq_plan_of {u : State} {k : Nat} (hdoor : AgreeDoorbell (State.waits k s) u)
    (hcfg : u.cfg = s.cfg) (hrun : u.isRunning = s.isRunning) :
    u.serviceDoorbell.finish = (State.runMicros (servicePlan s.cfg
      (State.waits (k + 1) s).doorbellLatch s.isRunning
      (u.drive .busen false).linkCheck).steps u).pause := by
  have ⟨_, hlatch, _⟩ := hdoor.others
  rw [State.others_waits] at hlatch
  rw [State.serviceDoorbell_eq_plan, hcfg, hrun, hlatch]

/-- A held POLL that finds REQ = 0 runs its plan (R305). -/
theorem exec_poll_of_released (hphase : s.arbPhase = .acked) (hreq : s.others.req = false) :
    exec .poll s = (State.runMicros (pollPlan s).steps s).pause := by
  have hexec : exec .poll s = (s.turn.bind fun _ u =>
      (State.runMicros (handshakeExitSteps u.arbWasRunning) u).bind fun _ w =>
        w.serviceDoorbell).finish := by
    change execPoll s = _
    simp only [execPoll, hphase, State.resumeHandshake, hreq]
    rfl
  have hdoor : AgreeDoorbell (State.waits (if s.arbWasRunning then 5 else 4) s)
      (State.runGiven (handshakeExitSteps s.arbWasRunning) s.others.spend) := by
    have hexit := State.runGiven_agreeDoorbell (k := 1) (s := s) (u := s.others.spend)
      (calm_exitSteps s.arbWasRunning) (calm_spend s.others).doorbell
    cases hwas : s.arbWasRunning <;> simpa [hwas, handshakeExitSteps] using hexit
  rw [pollPlan_of_held hphase, Plan.steps_after, hexec]
  refine State.turn_bind_pause ?_
  rw [State.spend_arbWasRunning, State.others_arbWasRunning]
  refine State.runMicros_bind_pause ?_
  rw [serviceDoorbell_eq_plan_of hdoor
    (by cases s.arbWasRunning <;> simp [handshakeExitSteps])
    (by cases s.arbWasRunning <;> simp [handshakeExitSteps, State.isRunning])]
  cases s.arbWasRunning <;>
    simp [handshakeExitSteps, State.linkCheck, State.busFree, State.acked]

/-- With the port, POLL runs what its sample of REQ selects (R302). -/
theorem exec_poll_of_port (hphase : s.arbPhase = .idle) (hinit : s.initialised = true)
    (hport : s.cfg.hasExpansion = true) :
    exec .poll s = (State.runMicros (pollPlan s).steps s).pause := by
  have hdoor : AgreeDoorbell (State.waits 2 s) (State.runGiven [id, id] s) :=
    State.runGiven_agreeDoorbell (k := 0) (by simpa using Calm.refl) (.refl s)
  have ⟨⟨⟨_, _, hsample, _⟩, _⟩, _⟩ := hdoor
  cases hreq : (State.waits 2 s).req with
  | true =>
    rw [pollPlan_of_request hphase hinit hport hreq]
    refine exec_poll_of_sampled hphase hinit hport ?_
    rintro u rfl
    rw [hsample, hreq, if_pos rfl]
    simp [State.isRunning]
  | false =>
    rw [pollPlan_of_no_request hphase hinit hport hreq, Plan.steps_after]
    refine exec_poll_of_sampled hphase hinit hport ?_
    rintro u rfl
    rw [hsample, hreq, if_neg (by simp),
      serviceDoorbell_eq_plan_of hdoor (by simp) (by simp [State.isRunning])]
    simp [State.linkCheck, State.busFree, State.acked]

/-- POLL runs its plan, but where it holds a handshake and finds REQ = 1 (R304). -/
theorem exec_poll_eq_plan (h : s.arbPhase = .acked → s.others.req = false) :
    exec .poll s = (State.runMicros (pollPlan s).steps s).pause := by
  cases hphase : s.arbPhase with
  | acked => exact exec_poll_of_released hphase (h hphase)
  | idle =>
    cases hinit : s.initialised with
    | false =>
      change execPoll s = _
      rcases s.turn_cases with ⟨-, ht⟩ | ⟨-, ht⟩ <;>
        simp [execPoll, State.requireInit, pollPlan_of_not_initialised, Plan.steps, hphase, ht,
          hinit]
    | true =>
      cases hport : s.cfg.hasExpansion with
      | false =>
        change execPoll s = _
        rcases s.turn_cases with ⟨-, ht⟩ | ⟨-, ht⟩ <;>
          simp [execPoll, State.requireInit, pollPlan_of_noPort, Plan.steps, hphase, ht, hinit,
            hport]
      | true => exact exec_poll_of_port hphase hinit hport

end

end Sys2Proof.Machine
end

section
namespace Sys2Proof.Machine

open Sys2Proof.Safety

/-! ### The host's share of a POLL (60_exceptions R351) -/

/-- A micro-step that does not look at the host's share. -/
def Portable (f : State → State) : Prop :=
  ∀ share u, f (u.setHostShare share) = (f u).setHostShare share

theorem portable_raise (c : FaultCode) : Portable (State.raise c) := by
  intro share u
  unfold State.raise
  rw [State.setHostShare_fault]
  split <;> rfl

theorem portable_drive (l : Line) (v : Bool) : Portable (State.drive l v) := by
  intro share u
  cases l <;> rfl

theorem portable_writeEffect (a : Addr) (v : Byte) : Portable (State.writeEffect a v) := by
  intro share u
  cases hram : inRam u.cfg a <;>
    simp [State.writeEffect, State.atomic, State.storeRam, hram] <;> rfl

theorem portable_servicePlan (c : Config) (latched running : Bool) (check : Option FaultCode) :
    ∀ f ∈ (servicePlan c latched running check).steps, Portable f := by
  have hclear : Portable clearAndComplete := fun _ _ => rfl
  have hcomplete : Portable State.complete := fun _ _ => rfl
  have hid : Portable id := fun _ _ => rfl
  have hemit : ∀ e, Portable (State.emit e) := fun _ _ _ => rfl
  unfold servicePlan
  split <;>
    simp [Plan.steps, deliverySteps, portable_drive, portable_writeEffect, portable_raise, *]

theorem portable_pollPlan (s : State) : ∀ f ∈ (pollPlan s).steps, Portable f := by
  have hid : Portable id := fun _ _ => rfl
  have hcomplete : Portable State.complete := fun _ _ => rfl
  have hwas : ∀ v, Portable (State.setFlag .arbWasRunning v) := fun _ _ _ => rfl
  have hphase : ∀ v, Portable (State.setArbPhase v) := fun _ _ _ => rfl
  unfold pollPlan
  split
  · rw [Plan.steps_after, List.forall_mem_append]
    refine ⟨?_, portable_servicePlan _ _ _ _⟩
    cases s.arbWasRunning <;> simp [handshakeExitSteps, portable_drive, hid, hwas, hphase]
  · split_ifs
    · cases s.isRunning <;> simp [Plan.steps, entryFront, portable_drive, hid, hwas, hphase]
    · rw [Plan.steps_after, List.forall_mem_append]
      exact ⟨by simp [hid], portable_servicePlan _ _ _ _⟩
    · simpa [Plan.steps] using hcomplete
    · simpa [Plan.steps] using portable_raise _

section

variable {fs : List (State → State)} {s t : State}

/-- A list of micro-steps with `n` left of the share: it runs to its end and leaves the rest, or
ends denied. -/
theorem runMicros_bounded (hfs : ∀ f ∈ fs, Portable f) (n : Nat) (u : State) :
    (n < fs.length → ∃ t, State.runMicros fs (u.setHostShare (some n)) = .stop t ∧ HostDenied t) ∧
    (fs.length ≤ n → State.runMicros fs (u.setHostShare (some n)) =
      .ok () ((State.runServed fs u).setHostShare (some (n - fs.length)))) := by
  induction fs generalizing n u with
  | nil => exact ⟨fun h => absurd h (by simp), fun _ => rfl⟩
  | cons f fs ih =>
    rw [List.forall_mem_cons] at hfs
    cases n with
    | zero =>
      refine ⟨fun _ => ⟨(u.setHostShare (some 0)).others, ?_, by simp [HostDenied]⟩,
        fun h => absurd h (by simp)⟩
      rw [State.runMicros_cons, State.turn_of_denied rfl, Result.bind_stop]
    | succ n =>
      have hturn : (u.setHostShare (some (n + 1))).turn =
          .ok () (u.others.setHostShare (some n)) := by
        simp [State.turn, State.grant, State.others_setHostShare]; rfl
      rw [State.runMicros_cons, hturn, Result.bind_ok, hfs.1]
      simpa using ih hfs.2 n (f u.others)

/-- The same list with every micro-step given. -/
theorem runMicros_unbounded (hfs : ∀ f ∈ fs, Portable f) (u : State) :
    State.runMicros fs (u.setHostShare none) =
      .ok () ((State.runServed fs u).setHostShare none) := by
  induction fs generalizing u with
  | nil => rfl
  | cons f fs ih =>
    rw [List.forall_mem_cons] at hfs
    rw [State.runMicros_cons, State.turn_of_served rfl, Result.bind_ok, State.others_setHostShare,
      hfs.1]
    exact ih hfs.2 (f u.others)

theorem runMicros_of_portable (hfs : ∀ f ∈ fs, Portable f) (hserved : HostServed s) :
    State.runMicros fs s = .ok () (State.runGiven fs s) := by
  have hs : s = s.setHostShare none := by
    unfold HostServed at hserved; rw [← hserved]; rfl
  have hrun := runMicros_unbounded hfs s
  rw [← hs] at hrun
  rcases State.runMicros_cases fs s with ⟨t, hr, -⟩ | hr <;> rw [hr] at hrun ⊢
  cases hrun

/-! ### POLL by the host's share -/

/-- A plan whose front keeps `P` stops there with `P`, or has taken its last micro-step from
there. -/
theorem Plan.runMicros_cases {p : Plan} {P : State → Prop} (others : ∀ u, P u → P u.others)
    (spend : ∀ u, P u → P u.spend) (front : ∀ f ∈ p.front, ∀ u, P u → P (f u)) (h : P s) :
    (∃ t, State.runMicros p.steps s = .stop t ∧ P t) ∨
      ∃ u, State.runMicros p.steps s = .ok () (p.last u) ∧ P u := by
  have hfront := State.runMicros_induct others spend p.front front h
  rw [Plan.steps, State.runMicros_append]
  rcases State.runMicros_cases p.front s with ⟨t, hr, -⟩ | hr <;> rw [hr] at hfront ⊢
  · exact .inl ⟨t, rfl, hfront⟩
  · have hnext := others _ hfront
    rcases (State.runGiven p.front s).turn_cases with ⟨-, ht⟩ | ⟨-, ht⟩
    · exact .inl ⟨_, by simp [ht], hnext⟩
    · exact .inr ⟨_, by simp [ht], spend _ hnext⟩

theorem exec_poll_of_served (hserved : HostServed s)
    (h : s.arbPhase = .acked → s.others.req = false) :
    exec .poll s = .next (State.runGiven (pollPlan s).steps s) := by
  rw [exec_poll_eq_plan h, runMicros_of_portable (portable_pollPlan s) hserved, Result.pause_ok]

/-- A look that finds REQ = 1 (R304). -/
theorem exec_poll_of_holding (hphase : s.arbPhase = .acked) (hreq : s.others.req = true) :
    exec .poll s = .next s.others := by
  change execPoll s = _
  simp [execPoll, hphase, State.resumeHandshake, hreq]

theorem Plan.runMicros_of_denied (p : Plan) (hd : HostDenied s) :
    State.runMicros p.steps s = .stop s.others := by
  unfold Plan.steps
  cases p.front <;> simp [State.turn_of_denied hd]

/-- A denied host stands where it is, wherever that is (60_exceptions R351). -/
theorem exec_poll_of_denied (hd : HostDenied s) : exec .poll s = .next s.others := by
  by_cases h : s.arbPhase = .acked ∧ s.others.req = true
  · exact exec_poll_of_holding h.1 h.2
  · rw [exec_poll_eq_plan (by simpa using h), Plan.runMicros_of_denied _ hd, Result.pause_stop]

end

end Sys2Proof.Machine
end

section
namespace Sys2Proof.Safety

open Sys2Proof.Machine

/-! ### POLL with nothing to do, with a doorbell to drop, and in the hold -/

/-- Settles O49: without the port the plan is the check alone; with it, the check, the sample and
the test. -/
theorem pollWithNothingToDo : Obligations.PollWithNothingToDo := by
  intro s hinit hphase
  refine ⟨fun hd hport => ?_, fun hserved hport hreq hlatch => ?_⟩
  · rw [exec_poll_eq_plan (by simp [hphase]), pollPlan_of_noPort hphase hinit hport]
    rcases s.turn_cases with ⟨hdenied, -⟩ | ⟨-, ht⟩
    · exact absurd hdenied hd
    · simp [Plan.steps, ht]
  · have hshare : s.hostShare = none := hserved
    rw [exec_poll_of_served hserved (by simp [hphase]),
      pollPlan_of_no_request hphase hinit hport hreq, hlatch]
    simp [servicePlan, Plan.steps, State.waits, State.spend_of_served, hshare]

/-- Settles O51: in the hold a step is POLL's look, and the look uses no share. -/
theorem pollHoldsWhileRequested : Obligations.PollHoldsWhileRequested := by
  intro s hfault hrefused hphase
  have hstep : step s = exec .poll s := by
    by_cases hd : HostDenied s
    · rw [exec_poll_of_denied hd]
      simp [step, hfault, hrefused, hd]
    · have hshare : s.hostShare ≠ some 0 := hd
      simp [step, stepHost, hfault, hrefused, hphase, hshare]
  refine ⟨hstep, fun h => hstep.trans ?_⟩
  rcases h with hreq | hd
  · exact exec_poll_of_holding hphase hreq
  · exact exec_poll_of_denied hd

/-- Settles O54: the plan is the check, the sample, the test and the clear. -/
theorem pollDropsDoorbellWhileHalted : Obligations.PollDropsDoorbellWhileHalted := by
  intro s hserved hinit hphase hport hrun hreq hlatch
  have hshare : s.hostShare = none := hserved
  have hhalted : s.isRunning = false := by simp [State.isRunning, hrun]
  have hend : State.runGiven [id, id, id, clearAndComplete] s =
      clearAndComplete (State.waits 4 s) := by
    simp [State.waits, State.spend_of_served, hshare]
  rw [exec_poll_of_served hserved (by simp [hphase]),
    pollPlan_of_no_request hphase hinit hport hreq, hlatch, hhalted]
  change Host.Outcome.next (State.runGiven [id, id, id, clearAndComplete] s) = _
  rw [hend, ← State.waits_cpos 4 s]
  rfl

end Sys2Proof.Safety
end

section
namespace Sys2Proof.Safety

open Sys2Proof.Machine

/-! ### POLL cannot fault after INIT (45_expansion_arbiter R315) -/

/-- Where the cycle of a delivery finds the link and the bus free. -/
def Uncontended (s : State) : Prop :=
  s.linkBusy = false ∧ (s.arbPhase = .idle → s.acked = false)

theorem linkCheck_paused {s : State} (hlink : s.linkBusy = false) (hack : s.acked = false) :
    (s.drive .busen false).linkCheck = none := by
  simpa [State.linkCheck, hlink, State.busFree, State.acked] using hack

theorem linkCheck_released {s : State} (hlink : s.linkBusy = false) :
    (State.drive .busen false (s.drive .ack false)).linkCheck = none :=
  linkCheck_paused (by simpa using hlink) (by simp [State.acked])

theorem servicePlan_last (c : Config) (latched running : Bool) :
    (servicePlan c latched running none).last = State.complete ∨
      (servicePlan c latched running none).last = clearAndComplete := by
  cases latched <;> cases running <;> simp [servicePlan]

/-- Past its check an uncontended POLL ends by completing or in the hold. -/
theorem Uncontended.pollPlan_last {s : State} (h : Uncontended s)
    (hinit : s.arbPhase = .idle → s.initialised = true) :
    (pollPlan s).last = State.complete ∨ (pollPlan s).last = clearAndComplete ∨
      (pollPlan s).last = State.setArbPhase .acked := by
  cases hphase : s.arbPhase with
  | acked =>
    rw [pollPlan_of_held hphase, linkCheck_released h.1]
    exact (servicePlan_last _ _ _).imp_right .inl
  | idle =>
    simp only [pollPlan, hphase, hinit hphase, linkCheck_paused h.1 (h.2 hphase), if_true]
    split_ifs
    · exact .inr (.inr rfl)
    · exact (servicePlan_last _ _ _).imp_right .inl
    · exact .inl rfl

theorem Uncontended.pollPlan_fault {s : State} (h : Uncontended s)
    (hinit : s.arbPhase = .idle → s.initialised = true) :
    ∀ f ∈ (pollPlan s).steps, ∀ u, (f u).fault = u.fault := by
  rw [Plan.steps, List.forall_mem_append]
  refine ⟨fun f hf u => (calm_pollPlan s f hf u).fault, ?_⟩
  rw [List.forall_mem_singleton]
  rcases h.pollPlan_last hinit with hl | hl | hl <;> rw [hl] <;> exact fun _ => rfl

/-- Between two commands after INIT a POLL is uncontended. -/
theorem Settled.uncontended {s : State} (h : Settled s) (hinit : s.initialised = true) :
    Uncontended s := by
  obtain ⟨⟨-, hlink, -⟩, hready, -⟩ := h
  obtain ⟨-, -, -, -, -, -, -, -, -, -, -, -, -, hidle, -⟩ := hready hinit
  exact ⟨hlink, fun hphase => (hidle hphase).1⟩

/-- Settles O55: no micro-step of an uncontended plan raises. -/
theorem pollNeverFaults : Obligations.PollNeverFaults := by
  intro s h hinit hfault
  have hothers : s.others.fault = none := (State.others_fault s).trans hfault
  by_cases hd : HostDenied s
  · exact ⟨_, exec_poll_of_denied hd, hothers⟩
  by_cases hhold : s.arbPhase = .acked ∧ s.others.req = true
  · exact ⟨_, exec_poll_of_holding hhold.1 hhold.2, hothers⟩
  have hsettled : Settled s := ⟨((machineInv_iff s).1 h).1, ((machineInv_iff s).1 h).2 hd⟩
  have hplan := (hsettled.uncontended hinit).pollPlan_fault fun _ => hinit
  obtain ⟨t, hexec⟩ := exec_next .poll s
  refine ⟨t, hexec, ?_⟩
  rw [exec_poll_eq_plan (by simpa using hhold)] at hexec
  exact Kept.pause (State.runMicros_induct (P := fun u => u.fault = none)
    (fun u hu => by simpa using hu) (fun u hu => by simpa using hu) _
    (fun f hf u hu => (hplan f hf u).trans hu) hfault) hexec

end Sys2Proof.Safety
end

section
namespace Sys2Proof.Machine

open Sys2Proof.Safety

/-! ### What a POLL adds to the history -/

/-- A micro-step that adds the events `new` and lets the schedule be. -/
def Emits (f : State → State) (new : List Event) : Prop :=
  ∀ u, (f u).hist = u.hist ++ new ∧ (f u).schedule = u.schedule ∧ (f u).endless = u.endless

theorem inOrder_self (es : List Event) : InOrder es es := by
  induction es with
  | nil => rfl
  | cons e es ih => exact ⟨[], es, rfl, rfl, ih⟩

theorem Logged.runGiven {fs : List (State → State)} {news : List (List Event)} {s u : State}
    {es : List Event} (hfs : List.Forall₂ Emits fs news) (h : Logged s es u) :
    Logged s (es ++ news.flatten) (State.runGiven fs u) := by
  induction hfs generalizing u es with
  | nil => simpa using h
  | @cons f new fs news hf _ ih =>
    obtain ⟨hhist, hsched, hend⟩ := hf u.others.spend
    rw [List.flatten_cons, ← List.append_assoc]
    exact ih (h.others.append (by simpa using hhist) (by simpa using hsched) (by simpa using hend)
      (inOrder_self new))

/-! ### INT at a boundary -/

/-- Two states in which the doorbell and the tick do the same. -/
def AgreeInt (s t : State) : Prop :=
  AgreeDoorbell s t ∧ t.tickArmed = s.tickArmed ∧ t.int = s.int

theorem AgreeInt.refl (s : State) : AgreeInt s s := ⟨.refl s, rfl, rfl⟩

theorem AgreeInt.move {s t : State} (m : Move) (h : AgreeInt s t) :
    AgreeInt (s.move m) (t.move m) := by
  obtain ⟨hdoor, htick, hint⟩ := h
  refine ⟨hdoor.move m, ?_⟩
  obtain ⟨-, -, -, -, -, hie, -⟩ := hdoor
  cases m with
  | tick =>
    unfold State.move
    simp only [State.enabled, htick, hie]
    split <;> simp [State.perform, State.tickHandler, *]
  | _ =>
    unfold State.move
    split <;> split <;>
      simp [State.perform, State.changeReq, *]

theorem AgreeInt.others {s t : State} (h : AgreeInt s t) : AgreeInt s.others t.others := by
  refine State.others_rel (R := AgreeInt) ?_ ?_ ?_ (fun _ _ m h => h.move m) h
  · rintro s t ⟨⟨⟨⟨hsched, hdraws, -, -⟩, -, hend⟩, -⟩, -⟩
    exact ⟨hsched, hend, hdraws⟩
  · rintro s t l ⟨⟨⟨⟨-, hsame⟩, hport⟩, hrest⟩, hint⟩
    exact ⟨⟨⟨⟨rfl, hsame⟩, hport⟩, hrest⟩, hint⟩
  · rintro s t ⟨⟨⟨⟨hsched, hdraws, hsame⟩, hport⟩, hrest⟩, hint⟩
    exact ⟨⟨⟨⟨hsched, congrArg (· + 1) hdraws, hsame⟩, hport⟩, hrest⟩, hint⟩

theorem AgreeInt.sameAsync {s t : State} (h : AgreeInt s t) : SameAsync s t := by
  obtain ⟨⟨⟨⟨hsched, hdraws, hreq, hdbell⟩, -⟩, hlatch, hpend, hedge, -⟩, -, hint⟩ := h
  exact ⟨hsched, hreq, hdbell, hlatch, hpend, hint, hedge, hdraws⟩

end Sys2Proof.Machine
end

section
namespace Sys2Proof.Safety

open Sys2Proof.Machine

/-! ### The grant (45_expansion_arbiter R302, R303) -/

theorem emits_handshakeEntrySteps (w : Bool) :
    ∃ news, List.Forall₂ Emits (handshakeEntrySteps w) news ∧
      news.flatten = (if w then [.line .busen false] else []) ++ [.line .ack true] := by
  cases w with
  | false => exact ⟨[[], [_], []], by simp [handshakeEntrySteps, Emits], rfl⟩
  | true => exact ⟨[[], [_], [_], []], by simp [handshakeEntrySteps, Emits], rfl⟩

theorem agreeInt_handshakeEntrySteps (w : Bool) :
    ∀ f ∈ handshakeEntrySteps w, ∀ a b, AgreeInt a b → AgreeInt a (f b) := by
  cases w <;>
    simp +contextual [handshakeEntrySteps, AgreeInt, AgreeDoorbell, AgreeInputs, SameInputs]

/-- Settles O50: the plan is the check, the sample and the handshake entry. -/
theorem pollGrantsTheBus : Obligations.PollGrantsTheBus := by
  intro s hserved hinit hphase hport hreq
  have hexec := exec_poll_of_served hserved (by simp [hphase])
  rw [pollPlan_of_request hphase hinit hport hreq] at hexec
  refine ⟨_, hexec, ?_, ?_, ?_, ?_, ?_, ?_, ?_, ?_, ?log, ?async, ?link⟩
  case log =>
    obtain ⟨news, hnews, hflat⟩ := emits_handshakeEntrySteps s.isRunning
    have hlog := ((Logged.start s).runGiven (fs := [id, id]) (news := [[], []])
      (by simp [Emits])).runGiven hnews
    rw [State.runGiven_append, hlog.hostLog, hflat]
    cases s.isRunning <;> simp <;> rfl
  case async =>
    have hagree := State.runGiven_waits (R := AgreeInt) (k := 0) (s := s)
      (fs := [id, id] ++ handshakeEntrySteps s.isRunning) (fun _ _ => AgreeInt.others)
      (fun a b h => by simpa [AgreeInt, AgreeDoorbell, AgreeInputs, SameInputs] using h)
      (by simpa using agreeInt_handshakeEntrySteps s.isRunning) (.refl s)
    have hsame := hagree.sameAsync
    cases hrun : s.isRunning <;> simpa [hrun, handshakeEntrySteps] using hsame
  all_goals
    cases s.isRunning <;> simp [handshakeEntrySteps, KeepsLink]

end Sys2Proof.Safety
end

section
namespace Sys2Proof.Safety

open Sys2Proof.Machine

/-! ### Part 2 of POLL (45_expansion_arbiter R310 to R313) -/

theorem microKeeps_refl (u : State) : MicroKeeps u u := by
  constructor <;> simp [KeepsOperands, KeepsResults, KeepsString, HostServed, SameInputs]

theorem microKeeps_drive (l : Line) (v : Bool) (u : State) : MicroKeeps u (u.drive l v) :=
  microKeeps_of_script (x := .arch6502) (y := .normal) (.drive l v .nil) _ (by simp) u

theorem microKeeps_emit (e : Event) (u : State) : MicroKeeps u (u.emit e) :=
  microKeeps_of_script (x := .arch6502) (y := .normal) (.emit e .nil) _ (by simp) u

theorem microKeeps_clearAndComplete (u : State) : MicroKeeps u (clearAndComplete u) := by
  constructor <;>
    simp [clearAndComplete, KeepsOperands, KeepsResults, KeepsString, HostServed, SameInputs]

/-- With no bus write scheduled, micro-steps that store nothing leave memory as it is. -/
theorem bytesKept_runGiven {fs : List (State → State)} {s u : State}
    (hfs : ∀ f ∈ fs, ∀ u, MicroKeeps u (f u)) (h : BytesKept [] s u) :
    BytesKept [] s (State.runGiven fs u) :=
  State.runGiven_induct (P := BytesKept [] s) (fun _ => BytesKept.others)
    (fun u hu => hu.micro (microKeeps_spend u)) (fun f hf u hu => hu.micro (hfs f hf u)) h

/-- A delivery from `u` in its place among micro-steps that store nothing. -/
theorem memAt_delivery {u : State} (hquiet : NoBusWrites u) (b : Addr) :
    (State.runGiven (id :: deliverySteps u.cfg ++ [clearAndComplete]) u).memAt b =
      if b = u.cfg.mbxExpFlag ∧ inRam u.cfg b = true then 0x01#8 else u.memAt b := by
  have hturn : BytesKept [] u (State.runGiven [id, State.drive .busen false] u).others.spend :=
    ((bytesKept_runGiven (by simp [microKeeps_refl, microKeeps_drive]) (.refl [] u)).others).micro
      (microKeeps_spend _)
  have hcfg : (State.runGiven [id, State.drive .busen false] u).others.spend.cfg = u.cfg := by simp
  have hsplit : State.runGiven (id :: deliverySteps u.cfg ++ [clearAndComplete]) u =
      State.runGiven [State.drive .busen true, State.drive .int true, State.drive .int false,
        State.emit (.intPulse .doorbell), clearAndComplete]
        ((State.runGiven [id, State.drive .busen false] u).others.spend.writeEffect u.cfg.mbxExpFlag
          Config.expFlagValue) := rfl
  rw [hsplit]
  generalize (State.runGiven [id, State.drive .busen false] u).others.spend = w at hturn hcfg ⊢
  obtain ⟨hw, hbytes⟩ := hturn hquiet
  have hafter := bytesKept_runGiven (fs := [State.drive .busen true, State.drive .int true,
    State.drive .int false, State.emit (.intPulse .doorbell), clearAndComplete])
    (by simp [microKeeps_drive, microKeeps_emit, microKeeps_clearAndComplete])
    (.refl [] (w.writeEffect u.cfg.mbxExpFlag Config.expFlagValue)) (hw.congr (by simp) (by simp))
  rw [hafter.2 b (.inl (by simp)), State.memAt_writeEffect, hcfg, hbytes b (.inl (by simp))]
  by_cases hb : b = u.cfg.mbxExpFlag
  · simp [← hb, Config.expFlagValue]
  · simp [hb, Ne.symm hb]

/-- What part 2 of POLL has done from `u` to `t`. -/
structure Serviced (delivers : Bool) (u t : State) : Prop where
  done : Completed u t
  arbiter : t.arbPhase = u.arbPhase ∧ t.arbWasRunning = u.arbWasRunning ∧ t.ack = u.ack
  latch : t.doorbellLatch = false
  busen : t.busen = (u.busen || delivers)
  int : delivers = true → t.int = false
  log : ∀ s es, Logged s es u → Logged s (es ++ if delivers then deliveryEvents u.cfg else []) t
  memory : NoBusWrites u → ∀ b, t.memAt b =
    if delivers = true ∧ b = u.cfg.mbxExpFlag ∧ inRam u.cfg b = true then 0x01#8 else u.memAt b

theorem emits_delivery (c : Config) :
    List.Forall₂ Emits (id :: deliverySteps c ++ [clearAndComplete])
      ([] :: (deliveryEvents c).map ([·]) ++ [[]]) := by
  simp [deliverySteps, deliveryEvents, Emits, clearAndComplete]

theorem servicePlan_serviced {u : State} {latched : Bool} (running : Bool)
    (hlatch : u.others.doorbellLatch = latched) :
    Serviced (latched && running) u
      (State.runGiven (servicePlan u.cfg latched running none).steps u) := by
  cases latched with
  | false =>
    constructor
    case log =>
      exact fun s es h => h.runGiven (news := [[]]) (by simp [servicePlan, Plan.steps, Emits])
    case memory =>
      intro hu b
      have hkept := bytesKept_runGiven (fs := [State.complete]) (by simp [microKeeps_complete])
        (.refl [] u) hu
      exact (hkept.2 b (by simp)).trans (by simp)
    all_goals simp [servicePlan, Plan.steps, hlatch, Completed]
  | true =>
    cases running with
    | false =>
      constructor
      case log =>
        exact fun s es h => h.runGiven (news := [[], []])
          (by simp [servicePlan, Plan.steps, Emits, clearAndComplete])
      case memory =>
        intro hu b
        have hkept := bytesKept_runGiven (fs := [id, clearAndComplete])
          (by simp [microKeeps_refl, microKeeps_clearAndComplete]) (.refl [] u) hu
        exact (hkept.2 b (by simp)).trans (by simp)
      all_goals simp [servicePlan, Plan.steps, clearAndComplete, Completed]
    | true =>
      constructor
      case log =>
        exact fun s es h => h.runGiven (emits_delivery u.cfg)
      case memory => exact fun hu b => (memAt_delivery hu b).trans (by simp)
      case int =>
        exact fun _ => runGiven_int (fs := [State.emit (.intPulse .doorbell), clearAndComplete])
          (s := State.drive .int false _) (by simp [clearAndComplete]) rfl
      all_goals simp [servicePlan, Plan.steps, deliverySteps, clearAndComplete, Completed]

/-- A served POLL that comes to part 2 after the micro-steps `fs` and `k` boundaries. -/
theorem exec_poll_serviced {s : State} {fs : List (State → State)} {k : Nat} {latched : Bool}
    (hserved : HostServed s) (hlook : s.arbPhase = .acked → s.others.req = false)
    (hplan : pollPlan s = (servicePlan s.cfg latched s.isRunning none).after fs)
    (hcalm : ∀ f ∈ fs, ∀ u, Calm u (f u)) (hcfg : (State.runGiven fs s).cfg = s.cfg)
    (hk : k = fs.length + 1) (hlatch : (State.waits k s).doorbellLatch = latched) :
    ∃ t, exec .poll s = .next t ∧ Serviced (latched && s.isRunning) (State.runGiven fs s) t := by
  have hdoor := State.runGiven_agreeDoorbell (k := 0) hcalm (.refl s)
  have ⟨_, hlatched, _⟩ := hdoor.others
  rw [State.others_waits, Nat.zero_add, ← hk, hlatch] at hlatched
  refine ⟨_, exec_poll_of_served hserved hlook, ?_⟩
  have hserviced := servicePlan_serviced s.isRunning hlatched
  rwa [hcfg, ← State.runGiven_append, ← Plan.steps_after, ← hplan] at hserviced

/-- Settles O53: part 2 after the check and the sample. -/
theorem pollDeliversDoorbell : Obligations.PollDeliversDoorbell := by
  intro s hserved hinit hphase hport hlink hacked hrun hreq hlatch
  have hrunning : s.isRunning = true := by simp [State.isRunning, hrun]
  have hplan := pollPlan_of_no_request hphase hinit hport hreq
  rw [hlatch, linkCheck_paused hlink hacked] at hplan
  obtain ⟨t, hexec, hdone, -, hclear, hbusen, hint, hlog, hmem⟩ :=
    exec_poll_serviced hserved (by simp [hphase]) hplan (by simpa using Calm.refl) (by simp) rfl
      hlatch
  rw [hrunning] at hbusen hint hlog hmem
  have hlogged : Logged s (deliveryEvents s.cfg) t := by
    simpa using hlog s [] ((Logged.start s).runGiven (news := [[], []]) (by simp [Emits]))
  have hbefore : BytesKept [] s (State.runGiven [id, id] s) :=
    bytesKept_runGiven (by simpa using microKeeps_refl) (.refl [] s)
  refine ⟨t, hexec, by simpa [Completed] using hdone, hclear, by simpa using hbusen, hint rfl,
    hlogged.hostLog, ?inOrder, fun hs => ?quiet, fun hs b => ?memory⟩
  case inOrder =>
    obtain ⟨_, hhist, ⟨e0, _, rfl, h0, e1, _, rfl, h1, e2, _, rfl, h2, e3, _, rfl, h3, e4, _, rfl,
      h4, e5, e6, rfl, h5, h6⟩, -⟩ := hlogged
    exact ⟨e0, e1, e2, e3, e4, e5, e6, by simpa [Config.expFlagValue] using hhist,
      List.forall_mem_cons.2 ⟨h0, by simpa using ⟨h1, h2, h3, h4, h5, h6⟩⟩⟩
  case quiet =>
    obtain ⟨ev, hhist, -, hall⟩ := hlogged
    rw [hhist, (hall hs).1]
    rfl
  case memory =>
    obtain ⟨hquiet, hbytes⟩ := hbefore hs
    rw [hmem hquiet b, hbytes b (.inl (by simp))]
    simp

theorem handshakeExitSteps_script (w : Bool) (x : Arch) (y : Speed) :
    Script x y (handshakeExitSteps w)
      ([.line .ack false] ++ if w then [.line .busen true] else []) := by
  cases w with
  | false => exact .drive .ack false <| .phase .idle <| .flag .arbWasRunning false .nil
  | true =>
    exact .drive .ack false <| .drive .busen true <| .phase .idle <| .flag .arbWasRunning false .nil

/-- Handshake exit, after the look that found REQ = 0 (R305). -/
theorem handshakeExit_runGiven (s : State) (w : Bool) :
    ∀ u, u = State.runGiven (id :: handshakeExitSteps w) s →
      u.cfg = s.cfg ∧ u.cpos = s.cpos ∧ u.fault = s.fault ∧ u.arbPhase = .idle ∧
      u.arbWasRunning = false ∧ u.ack = false ∧ u.busen = (s.busen || w) := by
  rintro u rfl
  cases w <;> simp [handshakeExitSteps]

/-- Settles O52: the handshake exit, then part 2. -/
theorem pollReleasesTheBus : Obligations.PollReleasesTheBus := by
  intro s k delivers hserved hphase hreq hlink hk hdelivers
  have hplan := pollPlan_of_held hphase
  rw [linkCheck_released hlink, ← hk] at hplan
  have ⟨hcfg, hcpos, hfault, hidle, hwas, hack, hbus⟩ :=
    handshakeExit_runGiven s s.arbWasRunning _ rfl
  obtain ⟨t, hexec, hserviced⟩ := exec_poll_serviced hserved (fun _ => hreq) hplan
    (by simpa using ⟨Calm.refl, calm_exitSteps _⟩) hcfg
    (by rw [hk]; cases s.arbWasRunning <;> simp [handshakeExitSteps]) rfl
  rw [← hdelivers] at hserviced
  obtain ⟨⟨hcount, hsame⟩, ⟨hphase', hwas', hack'⟩, hclear, hbusen, hint, hlog, hmem⟩ := hserviced
  simp only [hcfg] at hlog hmem
  have hothers : HostServed s.others := (State.others_hostShare s).trans hserved
  have hlook : State.runGiven (id :: handshakeExitSteps s.arbWasRunning) s =
      State.runGiven (handshakeExitSteps s.arbWasRunning) s.others := by
    rw [State.runGiven_cons, State.spend_of_served hothers, id]
  have hlogged : ∀ base, Logged base [] s.others → Logged base ([.line .ack false] ++
      (if s.arbWasRunning then [.line .busen true] else []) ++
      (if delivers then deliveryEvents s.cfg else [])) t := by
    intro base hbase
    obtain ⟨-, -, hexit⟩ := (handshakeExitSteps_script s.arbWasRunning s.others.arch
      s.others.speed).run rfl rfl hothers hbase
    rw [← hlook] at hexit
    simpa using hlog base _ hexit
  have hbefore : BytesKept [] s (State.runGiven (id :: handshakeExitSteps s.arbWasRunning) s) :=
    bytesKept_runGiven (List.forall_mem_cons.2 ⟨microKeeps_refl,
      microKeeps_of_script (handshakeExitSteps_script _ s.arch s.speed)⟩) (.refl [] s)
  obtain ⟨ev, hhist, horder, -⟩ := hlogged s (Logged.start s).others
  refine ⟨t, ev, hexec, ⟨by rw [hcount, hcpos], by rw [hsame, hfault]⟩, hphase'.trans hidle,
    hwas'.trans hwas, hack'.trans hack, hclear, by rw [hbusen, hbus], hint, ?log, hhist, horder,
    fun hs => ?quiet, fun hs b => ?memory⟩
  case log =>
    rw [(hlogged s (Logged.start s).others).hostLog]
    cases s.arbWasRunning <;> cases delivers <;> simp <;> rfl
  case quiet =>
    obtain ⟨ev', hhist', -, hall⟩ := hlogged s.others (Logged.start _)
    rw [hhist', (hall hs).1]
    simp
  case memory =>
    obtain ⟨hquiet, hbytes⟩ := hbefore hs
    rw [hmem hquiet b, hbytes b (.inl (by simp))]

end Sys2Proof.Safety
end

section
namespace Sys2Proof.Safety

open Sys2Proof.Machine

/-! ### How many micro-steps a POLL takes -/

theorem servicePlan_length (c : Config) (latched running : Bool) (check : Option FaultCode) :
    (servicePlan c latched running check).steps.length ≤ 1 + serviceTurns latched running ∧
    (check = none →
      (servicePlan c latched running check).steps.length = 1 + serviceTurns latched running) := by
  cases latched <;> cases running <;> cases check <;>
    simp [servicePlan, Plan.steps, serviceTurns, deliverySteps]

section

variable {s : State}

/-- POLL takes the micro-steps of its plan, but fewer where the cycle of a delivery raises. -/
theorem pollPlan_length (h : s.arbPhase = .acked → s.others.req = false) :
    (pollPlan s).steps.length ≤ pollTurns s ∧
      (Uncontended s → (pollPlan s).steps.length = pollTurns s) := by
  cases hphase : s.arbPhase with
  | acked =>
    obtain ⟨hle, heq⟩ := servicePlan_length s.cfg
      (State.waits (if s.arbWasRunning then 6 else 5) s).doorbellLatch s.isRunning
      (State.drive .busen false (s.drive .ack false)).linkCheck
    have hlook := h hphase
    rw [pollPlan_of_held hphase, Plan.steps_after, List.length_append]
    refine ⟨?_, fun hfree => ?_⟩
    · revert hle
      cases hwas : s.arbWasRunning <;> simp [pollTurns, hphase, hlook, hwas, handshakeExitSteps] <;>
        omega
    · have hservice := heq (linkCheck_released hfree.1)
      revert hservice
      cases hwas : s.arbWasRunning <;> simp [pollTurns, hphase, hlook, hwas, handshakeExitSteps] <;>
        omega
  | idle =>
    cases hinit : s.initialised with
    | false => simp [pollPlan_of_not_initialised hphase hinit, pollTurns, hphase, hinit, Plan.steps]
    | true =>
      cases hport : s.cfg.hasExpansion with
      | false =>
        simp [pollPlan_of_noPort hphase hinit hport, pollTurns, hphase, hinit, hport, Plan.steps]
      | true =>
        cases hreq : (State.waits 2 s).req with
        | true =>
          rw [pollPlan_of_request hphase hinit hport hreq]
          cases hrun : s.isRunning <;>
            simp [pollTurns, hphase, hinit, hport, hreq, hrun, handshakeEntrySteps]
        | false =>
          obtain ⟨hle, heq⟩ := servicePlan_length s.cfg (State.waits 3 s).doorbellLatch s.isRunning
            (s.drive .busen false).linkCheck
          have hturns : pollTurns s =
              3 + serviceTurns (State.waits 3 s).doorbellLatch s.isRunning := by
            simp [pollTurns, hphase, hinit, hport, hreq]
          rw [pollPlan_of_no_request hphase hinit hport hreq, Plan.steps_after, List.length_append,
            hturns]
          refine ⟨by simp; omega, fun hfree => ?_⟩
          have hservice := heq (linkCheck_paused hfree.1 (hfree.2 hphase))
          simp; omega

/-! ### Where a POLL stops (60_exceptions R351) -/

/-- A point of a POLL before its last micro-step. -/
def MidPoll (s u : State) : Prop :=
  u.cpos = s.cpos ∧ u.fault = s.fault ∧ ∃ k, AgreeDoorbell (State.waits k s) u

theorem MidPoll.others {u : State} (h : MidPoll s u) : MidPoll s u.others := by
  obtain ⟨hcpos, hfault, k, hdoor⟩ := h
  exact ⟨by simpa using hcpos, by simpa using hfault, k + 1, by
    rw [← State.others_waits]; exact hdoor.others⟩

theorem MidPoll.calm {u v : State} (h : MidPoll s u) (huv : Calm u v) : MidPoll s v := by
  obtain ⟨hcpos, hfault, k, hdoor⟩ := h
  exact ⟨huv.cpos.trans hcpos, huv.fault.trans hfault, k, hdoor.trans huv.doorbell⟩

theorem pollPlan_stops (s : State) :
    (∃ t, State.runMicros (pollPlan s).steps s = .stop t ∧ MidPoll s t) ∨
      ∃ u, State.runMicros (pollPlan s).steps s = .ok () ((pollPlan s).last u) ∧ MidPoll s u :=
  Plan.runMicros_cases (fun _ => MidPoll.others) (fun u hu => hu.calm (calm_spend u))
    (fun f hf u hu => hu.calm (calm_pollPlan s f hf u)) ⟨rfl, rfl, 0, .refl s⟩

/-- What every last micro-step of POLL leaves alone: the inputs and the pending edge, and CPOS and
FAULT but to complete or to raise. -/
def LastMicro (u v : State) : Prop :=
  (Completed u v ∨ v.cpos = u.cpos) ∧ SameInputs u v ∧ v.dbPending = u.dbPending ∧
  v.edgeDraws = u.edgeDraws

theorem lastMicro_servicePlan (c : Config) (latched running : Bool) (check : Option FaultCode)
    (u : State) : LastMicro u ((servicePlan c latched running check).last u) := by
  cases latched <;> cases running <;> cases check <;>
    simp [servicePlan, clearAndComplete, LastMicro, Completed, SameInputs]

theorem lastMicro_pollPlan (s u : State) : LastMicro u ((pollPlan s).last u) := by
  unfold pollPlan
  split
  · exact lastMicro_servicePlan _ _ _ _ u
  · split_ifs
    · simp [LastMicro, SameInputs]
    · exact lastMicro_servicePlan _ _ _ _ u
    · simp [LastMicro, SameInputs, Completed]
    · simp [LastMicro, SameInputs]

/-- How a POLL ends: CPOS, the inputs and the pending edge. -/
def PollEnds (s t : State) : Prop :=
  (Completed s t ∨ t.cpos = s.cpos) ∧ ∃ k, SameInputs (State.waits k s) t ∧
    t.dbPending = (State.waits k s).dbPending ∧ t.edgeDraws = (State.waits k s).edgeDraws

theorem MidPoll.pollEnds {u t : State} (h : MidPoll s u) (ht : LastMicro u t) : PollEnds s t := by
  obtain ⟨hcpos, hfault, k, ⟨⟨h1, h2, h3, h4⟩, -⟩, -, hpend, hedge, -⟩ := h
  obtain ⟨hcount, ⟨k1, k2, k3, k4⟩, hpend', hedge'⟩ := ht
  refine ⟨?_, k, ⟨k1.trans h1, k2.trans h2, k3.trans h3, k4.trans h4⟩, hpend'.trans hpend,
    hedge'.trans hedge⟩
  rwa [Completed, hcpos, hfault] at hcount

theorem exec_poll_ends {t : State} (hexec : exec .poll s = .next t) : PollEnds s t := by
  have hnone : ∀ u, MidPoll s u → PollEnds s u := fun u hu =>
    hu.pollEnds ⟨.inr rfl, ⟨rfl, rfl, rfl, rfl⟩, rfl, rfl⟩
  by_cases hhold : s.arbPhase = .acked ∧ s.others.req = true
  · rw [exec_poll_of_holding hhold.1 hhold.2] at hexec
    cases hexec
    exact hnone _ (MidPoll.others ⟨rfl, rfl, 0, .refl s⟩)
  · rw [exec_poll_eq_plan (by simpa using hhold)] at hexec
    rcases pollPlan_stops s with ⟨w, hr, hw⟩ | ⟨u, hr, hu⟩ <;> rw [hr] at hexec <;> cases hexec
    · exact hnone t hw
    · exact hu.pollEnds (lastMicro_pollPlan s u)

/-! ### POLL with a bounded share and without -/

theorem waits_setHostShare (k : Nat) (share : Option Nat) (s : State) :
    State.waits k (s.setHostShare share) = (State.waits k s).setHostShare share := by
  induction k generalizing s with
  | zero => rfl
  | succ k ih => rw [State.waits, State.others_setHostShare, ih, State.waits]

/-- The plan does not depend on the share. -/
theorem pollPlan_setHostShare (share : Option Nat) (s : State) :
    pollPlan (s.setHostShare share) = pollPlan s := by
  simp only [pollPlan, waits_setHostShare]
  rfl

theorem setHostShare_of_eq {share : Option Nat} (h : s.hostShare = share) :
    s.setHostShare share = s := by rw [← h]; rfl

/-- Too small a share cuts an uncontended POLL short. -/
theorem exec_poll_cutShort {t : State} {n : Nat} (hshare : s.hostShare = some n)
    (hn : n < pollTurns s) (hfree : Uncontended s) (hexec : exec .poll s = .next t) :
    CutShort s t := by
  have hlook : s.arbPhase = .acked → s.others.req = false := by
    intro hphase
    by_contra hreq
    rw [Bool.not_eq_false] at hreq
    simp [pollTurns, hphase, hreq] at hn
  rw [exec_poll_eq_plan hlook] at hexec
  rw [← (pollPlan_length hlook).2 hfree] at hn
  obtain ⟨w, hstop, hdenied⟩ := (runMicros_bounded (portable_pollPlan s) n s).1 hn
  rw [setHostShare_of_eq hshare] at hstop
  rw [hstop] at hexec
  cases hexec
  rcases pollPlan_stops s with ⟨w, hr, hcpos, hfault, -⟩ | ⟨u, hr, -⟩ <;> rw [hstop] at hr <;>
    cases hr
  exact ⟨hdenied, hcpos, hfault⟩

/-- A share that is large enough gives what a served host leaves, but for the share. -/
theorem exec_poll_unbounded {t : State} {n : Nat} (hshare : s.hostShare = some n)
    (hn : pollTurns s ≤ n) (hexec : exec .poll s = .next t) :
    exec .poll (s.setHostShare none) = .next (t.setHostShare none) := by
  have hothers := State.others_setHostShare none s
  by_cases hhold : s.arbPhase = .acked ∧ s.others.req = true
  · rw [exec_poll_of_holding hhold.1 hhold.2] at hexec
    cases hexec
    rw [exec_poll_of_holding (s := s.setHostShare none) hhold.1 (by rw [hothers]; exact hhold.2),
      hothers]
  · have hlook : s.arbPhase = .acked → s.others.req = false := by simpa using hhold
    have hlen := (pollPlan_length hlook).1.trans hn
    rw [exec_poll_eq_plan hlook, ← setHostShare_of_eq hshare, pollPlan_setHostShare,
      (runMicros_bounded (portable_pollPlan s) n s).2 hlen] at hexec
    cases hexec
    rw [exec_poll_eq_plan (by rw [hothers]; exact hlook), pollPlan_setHostShare,
      runMicros_unbounded (portable_pollPlan s)]
    rfl

end

end Sys2Proof.Safety
end

section
namespace Sys2Proof.Safety

open Sys2Proof.Machine

/-! ### The frame of POLL (45_expansion_arbiter R300) -/

section

variable {s u v t : State}

/-- What no micro-step of POLL but its cycle touches. -/
structure PollMicro (u v : State) : Prop extends MicroKeeps u v where
  modes : KeepsModes u v
  run : KeepsRun u v
  settings : KeepsSettings u v
  lines : v.archsel = u.archsel ∧ v.speedsel = u.speedsel ∧ v.resetLine = u.resetLine
  link : KeepsLink u v

theorem pollMicro_drive {l : Line} (w : Bool) (hl : l = .busen ∨ l = .ack ∨ l = .int) (u : State) :
    PollMicro u (u.drive l w) where
  toMicroKeeps := microKeeps_drive l w u
  modes := by simp [KeepsModes]
  run := by simp [KeepsRun]
  settings := by simp [KeepsSettings]
  lines := by rcases hl with rfl | rfl | rfl <;> simp
  link := by simp [KeepsLink]

/-- A micro-step that writes none of the fields POLL leaves alone. -/
theorem PollMicro.of_microKeeps (h : MicroKeeps u v)
    (hrest : KeepsModes u v ∧ KeepsRun u v ∧ KeepsSettings u v ∧
      (v.archsel = u.archsel ∧ v.speedsel = u.speedsel ∧ v.resetLine = u.resetLine) ∧
      KeepsLink u v := by simp [KeepsModes, KeepsRun, KeepsSettings, KeepsLink]) :
    PollMicro u v := by
  obtain ⟨hmodes, hrun, hsettings, hlines, hlink⟩ := hrest
  exact ⟨h, hmodes, hrun, hsettings, hlines, hlink⟩

/-- What POLL keeps at every point; its one cycle writes the link and, in RAM_SET, MBX_EXP_FLAG. -/
structure PollFrame (s u : State) : Prop extends HostFrame [s.cfg.mbxExpFlag] s u where
  modes : KeepsModes s u
  run : KeepsRun s u
  settings : KeepsSettings s u
  lines : u.archsel = s.archsel ∧ u.speedsel = s.speedsel ∧ u.resetLine = s.resetLine
  latch : u.latch = s.latch
  cycle : ∃ ev, u.hist = s.hist ++ ev ∧
    (Event.cyc .write s.cfg.mbxExpFlag 0x01#8 ∉ ev → KeepsLink s u ∧ BytesKept [] s u)

theorem PollFrame.refl (s : State) : PollFrame s s where
  toHostFrame := .refl _ s
  modes := by simp [KeepsModes]
  run := by simp [KeepsRun]
  settings := by simp [KeepsSettings]
  lines := by simp
  latch := rfl
  cycle := ⟨[], by simp, fun _ => ⟨by simp [KeepsLink], .refl [] s⟩⟩

theorem PollFrame.others (h : PollFrame s u) : PollFrame s u.others where
  toHostFrame := h.toHostFrame.others
  modes := by simpa [KeepsModes] using h.modes
  run := by simpa [KeepsRun] using h.run
  settings := by simpa [KeepsSettings] using h.settings
  lines := by simpa using h.lines
  latch := by simpa using h.latch
  cycle := by
    obtain ⟨ev, hhist, hquiet⟩ := h.cycle
    obtain ⟨new, hnew, -⟩ := u.others_hist
    refine ⟨ev ++ new, by rw [hnew, hhist, List.append_assoc], fun hno => ?_⟩
    obtain ⟨hlink, hbytes⟩ := hquiet fun hin => hno (List.mem_append_left new hin)
    exact ⟨(kept_keepsLink s).others u hlink, hbytes.others⟩

theorem PollFrame.micro (h : PollFrame s u) (huv : PollMicro u v) : PollFrame s v where
  toHostFrame := h.toHostFrame.micro huv.toMicroKeeps
  modes := by
    have hkeep := huv.modes
    unfold KeepsModes at hkeep
    simpa [KeepsModes, hkeep] using h.modes
  run := by
    have hkeep := huv.run
    unfold KeepsRun at hkeep
    simpa [KeepsRun, hkeep] using h.run
  settings := by
    have hkeep := huv.settings
    unfold KeepsSettings at hkeep
    simpa [KeepsSettings, hkeep] using h.settings
  lines := by simpa [huv.lines] using h.lines
  latch := by
    obtain ⟨-, -, hlatch, -⟩ := huv.link
    exact hlatch.trans h.latch
  cycle := by
    obtain ⟨ev, hhist, hquiet⟩ := h.cycle
    obtain ⟨new, hnew⟩ := huv.hist
    refine ⟨ev ++ new, by rw [hnew, hhist, List.append_assoc], fun hno => ?_⟩
    obtain ⟨hlink, hbytes⟩ := hquiet fun hin => hno (List.mem_append_left new hin)
    have hkeep := huv.link
    unfold KeepsLink at hkeep
    exact ⟨by simpa [KeepsLink, hkeep] using hlink, hbytes.micro huv.toMicroKeeps⟩

theorem PollFrame.writeEffect (h : PollFrame s u) (hcheck : u.linkCheck = none) :
    PollFrame s (u.writeEffect u.cfg.mbxExpFlag Config.expFlagValue) where
  toHostFrame := h.toHostFrame.writeEffect _ (by simp [h.operands.1]) hcheck
  modes := by simpa [KeepsModes, ((State.linkCheck_eq_none_iff u).1 hcheck).1] using h.modes
  run := by simpa [KeepsRun] using h.run
  settings := by simpa [KeepsSettings] using h.settings
  lines := by simpa using h.lines
  latch := by simpa using h.latch
  cycle := by
    obtain ⟨ev, hhist, -⟩ := h.cycle
    have hcfg : u.cfg = s.cfg := h.operands.1
    refine ⟨ev ++ [.cyc .write s.cfg.mbxExpFlag 0x01#8], ?_, fun hno => absurd (by simp) hno⟩
    rw [State.writeEffect_hist, hhist, hcfg, List.append_assoc]
    rfl

theorem kept_pollFrame (s : State) : Kept (PollFrame s) where
  others _ h := h.others
  spend u h := h.micro (.of_microKeeps (microKeeps_spend u))
  raise c u h := h.micro (.of_microKeeps (microKeeps_raise c u))
  complete u h := h.micro (.of_microKeeps (microKeeps_complete u))

theorem microKeeps_setFlag (f : Flag) (w : Bool) (u : State) : MicroKeeps u (u.setFlag f w) :=
  microKeeps_of_script (x := .arch6502) (y := .normal) (.flag f w .nil) _ (by simp) u

theorem microKeeps_setArbPhase (p : ArbPhase) (u : State) : MicroKeeps u (u.setArbPhase p) :=
  microKeeps_of_script (x := .arch6502) (y := .normal) (.phase p .nil) _ (by simp) u

theorem pollKeeps_pollFrame (s : State) : PollKeeps (PollFrame s) where
  wasRunning w u h := h.micro (.of_microKeeps (microKeeps_setFlag _ w u))
  latch u h := h.micro (.of_microKeeps (microKeeps_setFlag _ _ u))
  phase p u h := h.micro (.of_microKeeps (microKeeps_setArbPhase p u))
  line l w u hl h := h.micro (pollMicro_drive w hl u)
  pulse u h := h.micro (.of_microKeeps (microKeeps_emit _ u))
  cycle _ hcheck h := h.writeEffect hcheck

/-- Settles O56: the frame at every point, how the plan ends, and the plan under a bounded share. -/
theorem pollKeepsTheRest : Obligations.PollKeepsTheRest := by
  intro s t hexec
  obtain ⟨⟨hoperands, hresults, -, ⟨hsdi, hdraws⟩, hbytes⟩, hmodes, hrun, hsettings,
    ⟨harchsel, hspeedsel, hreset⟩, hlatch, ev, hhist, hcycle⟩ :=
    exec_poll_keeps (pollKeeps_pollFrame s) (kept_pollFrame s) (PollFrame.refl s) hexec
  obtain ⟨hcount, k, hinputs, hpend, hedge⟩ := exec_poll_ends hexec
  refine ⟨hoperands, hresults, hmodes, hrun, hsettings, harchsel, hspeedsel, hreset, hlatch, hsdi,
    hdraws, fun hs => ?quiet, ⟨k, hinputs, hpend, hedge⟩, hcount,
    fun n hshare => ⟨fun hn hlink hacked => ?short, fun hn => exec_poll_unbounded hshare hn hexec⟩,
    fun hs b hb => ?bytes, ev, hhist,
    fun hno => (hcycle hno).1, fun hs hno b => ?memory⟩
  case quiet =>
    obtain ⟨hreq, hdbell⟩ := hinputs.of_noMoves hs
    rw [State.waits_of_noMoves k hs] at hpend
    exact ⟨hreq, hdbell, hpend⟩
  case short => exact exec_poll_cutShort hshare hn ⟨hlink, hacked⟩ hexec
  case bytes => exact (hbytes hs).2 b (.inl (by simpa using hb))
  case memory =>
    rcases hno with hno | hram
    · exact ((hcycle hno).2 hs).2 b (.inl (by simp))
    · by_cases hb : b = s.cfg.mbxExpFlag
      · exact (hbytes hs).2 b (.inr (hb ▸ hram))
      · exact (hbytes hs).2 b (.inl (by simpa using hb))

end

end Sys2Proof.Safety
end

section
namespace Sys2Proof.Safety

open Sys2Proof.Machine

/-! ### The bus discipline (20_memory R80, 45_expansion_arbiter R306) -/

/-- The events since `s` keep the bus discipline and lead from its levels to those of `u`. -/
def BusLogged (s u : State) : Prop :=
  ∃ ev, u.hist = s.hist ++ ev ∧ busReplay ev s.busen s.acked = some (u.busen, u.acked)

section

variable {s u v : State}

theorem BusLogged.refl (s : State) : BusLogged s s := ⟨[], by simp, rfl⟩

theorem BusLogged.append {new : List Event} (h : BusLogged s u) (hhist : v.hist = u.hist ++ new)
    (hnew : busReplay new u.busen u.acked = some (v.busen, v.acked)) : BusLogged s v := by
  obtain ⟨ev, hu, hev⟩ := h
  exact ⟨ev ++ new, by rw [hhist, hu, List.append_assoc], by rw [busReplay_append, hev]; exact hnew⟩

/-- What changes neither the history nor the two levels. -/
theorem BusLogged.silent (h : BusLogged s u) (hhist : v.hist = u.hist) (hbusen : v.busen = u.busen)
    (hacked : v.acked = u.acked) : BusLogged s v :=
  h.append (new := []) (by simpa using hhist) (by rw [hbusen, hacked]; rfl)

theorem kept_busLogged (s : State) : Kept (BusLogged s) where
  others u h := by
    obtain ⟨new, hhist, -, hnew, -⟩ := u.others_hist
    exact h.append hhist (by simpa using hnew)
  spend u h := h.silent (by simp) (by simp) (by simp [State.acked])
  raise c u h := by
    unfold State.raise
    split
    · exact h.append (new := [.fault c]) rfl rfl
    · exact h
  complete u h := h.silent rfl rfl rfl

theorem BusLogged.trans (h : BusLogged s u) (huv : BusLogged u v) : BusLogged s v := by
  obtain ⟨new, hhist, hnew⟩ := huv
  exact h.append hhist hnew

/-- A cycle falls where the bus is free (41_bus_link R140). -/
theorem busReplay_cyc (d : Dir) (a : Addr) (w : Byte) (hfree : u.busFree = true) :
    busReplay [.cyc d a w] u.busen u.acked = some (u.busen, u.acked) := by
  obtain ⟨hbusen, hacked⟩ := (State.busFree_iff u).1 hfree
  simp [busReplay, busEvent, hbusen, hacked]

theorem busLogged_writeEffect (a : Addr) (w : Byte) (hfree : u.busFree = true) :
    BusLogged u (u.writeEffect a w) :=
  ⟨_, State.writeEffect_hist a w u, by simpa [State.acked] using busReplay_cyc .write a w hfree⟩

theorem busLogged_readEffect (a : Addr) (hfree : u.busFree = true) :
    BusLogged u (u.readEffect a) :=
  ⟨_, State.readEffect_hist a u, by
    simpa [State.acked] using busReplay_cyc .read a (u.captured a) hfree⟩

/-- The guest is let back on the bus only where the card is off it. -/
theorem busLogged_drive_busen {w : Bool} (hfree : (w && u.acked) = false) :
    BusLogged u (u.drive .busen w) := by
  have hacked : (u.drive .busen w).acked = u.acked := rfl
  exact ⟨_, State.drive_hist _ _ u, by simp [hacked, busReplay, busEvent, hfree]⟩

/-- With the port, the card is let on the bus only where the guest is off it. -/
theorem busLogged_drive_ack {w : Bool} (hport : u.cfg.hasExpansion = true)
    (hfree : (w && u.busen) = false) : BusLogged u (u.drive .ack w) :=
  ⟨_, State.drive_hist _ _ u, by simp [busReplay, busEvent, hfree, State.acked, hport]⟩

/-! ### The commands that let the card be -/

/-- Since `s` the discipline is kept and the card is off the bus. -/
def OffBus (s u : State) : Prop := BusLogged s u ∧ u.acked = false

theorem kept_offBus (s : State) : Kept (OffBus s) := kept_and (kept_busLogged s) (kept_acked false)

/-- A micro-step that drives no line, or one that only commands look at. -/
theorem OffBus.micro {new : List Event} (h : OffBus s u) (hhist : v.hist = u.hist ++ new)
    (hnew : busReplay new u.busen u.acked = some (v.busen, u.acked)) (hacked : v.acked = u.acked) :
    OffBus s v :=
  ⟨h.1.append hhist (by rw [hnew, hacked]), hacked.trans h.2⟩

theorem OffBus.drive {l : Line} (w : Bool) (hl : l ≠ .ack) (h : OffBus s u) :
    OffBus s (u.drive l w) := by
  cases l with
  | ack => exact absurd rfl hl
  | busen => exact ⟨h.1.trans (busLogged_drive_busen (by simp [h.2])), h.2⟩
  | _ => exact h.micro (State.drive_hist _ _ u) rfl rfl

theorem OffBus.setFlag (f : Flag) (w : Bool) (h : OffBus s u) : OffBus s (u.setFlag f w) :=
  h.micro (new := []) (by simp) (by simp [busReplay]) (by simp [State.acked])

theorem OffBus.delay (d : Duration) (h : OffBus s u) : OffBus s (u.delay d) :=
  h.micro (State.delay_hist d u) rfl rfl

theorem OffBus.setW (i : Setting) (w : Byte) (h : OffBus s u) : OffBus s (u.emit (.setW i w)) :=
  h.micro (State.emit_hist _ u) rfl rfl

theorem OffBus.setSetting (i : Setting) (w : Byte) (h : OffBus s u) : OffBus s (u.setSetting i w) :=
  h.micro (new := []) (by simp) (by simp [busReplay]) (by simp [State.acked])

theorem offBus_hrstSteps : ∀ f ∈ hrstSteps, ∀ u, OffBus s u → OffBus s (f u) := by
  have hrunstate : ∀ r u, OffBus s u → OffBus s (State.setRunstate r u) := fun _ _ h => h
  simp +contextual [hrstSteps, guestPulseSteps, State.mirrorArch, OffBus.drive, OffBus.setFlag,
    OffBus.delay, hrunstate]

theorem offBus_stopSteps : ∀ f ∈ stopSteps, ∀ u, OffBus s u → OffBus s (f u) := by
  have hrunstate : ∀ r u, OffBus s u → OffBus s (State.setRunstate r u) := fun _ _ h => h
  simp +contextual [stopSteps, OffBus.drive, OffBus.setFlag, OffBus.delay, hrunstate]

theorem offBus_releaseSteps (c : Config) :
    ∀ f ∈ releaseSteps c, ∀ u, OffBus s u → OffBus s (f u) := by
  have hrunstate : ∀ r u, OffBus s u → OffBus s (State.setRunstate r u) := fun _ _ h => h
  cases hbuild : c.tickBuildEnabled <;>
    simp +contextual [releaseSteps, hbuild, OffBus.drive, OffBus.setFlag, OffBus.delay, hrunstate]

theorem offBus_sarchSteps (x : Arch) : ∀ f ∈ sarchSteps x, ∀ u, OffBus s u → OffBus s (f u) := by
  have harch : ∀ u, OffBus s u → OffBus s (State.setArch x u) := fun _ h => h
  simp +contextual [sarchSteps, OffBus.drive, OffBus.setSetting, OffBus.setW, harch]

theorem offBus_sspdSteps (x : Speed) : ∀ f ∈ sspdSteps x, ∀ u, OffBus s u → OffBus s (f u) := by
  have hspeed : ∀ u, OffBus s u → OffBus s (State.setSpeed x u) := fun _ h => h
  simp +contextual [sspdSteps, OffBus.drive, OffBus.setSetting, OffBus.setW, hspeed]

theorem OffBus.writeEffect (a : Addr) (w : Byte) (hcheck : u.linkCheck = none) (h : OffBus s u) :
    OffBus s (u.writeEffect a w) :=
  ⟨h.1.trans (busLogged_writeEffect a w ((State.linkCheck_eq_none_iff u).1 hcheck).2),
    by simpa [State.acked] using h.2⟩

/-! ### POLL, by the levels of BUSEN and ACK -/

/-- A micro-step that keeps the discipline and both levels. -/
def KeepsLevels (f : State → State) : Prop :=
  ∀ u, BusLogged u (f u) ∧ (f u).busen = u.busen ∧ (f u).acked = u.acked ∧ (f u).cfg = u.cfg

/-- From levels of BUSEN and ACK, micro-steps each of which the discipline allows where it
stands. -/
inductive BusWalk : Bool → Bool → List (State → State) → Prop
  | nil {b k} : BusWalk b k []
  | level {b k fs} {f : State → State} (hf : KeepsLevels f) (h : BusWalk b k fs) :
      BusWalk b k (f :: fs)
  | busen {b k fs} (w : Bool) (hw : (w && k) = false) (h : BusWalk w k fs) :
      BusWalk b k (State.drive .busen w :: fs)
  | ack {b k fs} (w : Bool) (hw : (w && b) = false) (h : BusWalk b w fs) :
      BusWalk b k (State.drive .ack w :: fs)
  | cycle {fs} (a : Addr) (w : Byte) (h : BusWalk false false fs) :
      BusWalk false false (State.writeEffect a w :: fs)

theorem BusLogged.runMicros_cons {f : State → State} {fs : List (State → State)} (h : BusLogged s u)
    (hrest : BusLogged s u.others.spend →
      (State.runMicros fs (f u.others.spend)).Holds (BusLogged s)) :
    (State.runMicros (f :: fs) u).Holds (BusLogged s) := by
  have hnext := (kept_busLogged s).others u h
  rcases u.turn_cases with ⟨-, ht⟩ | ⟨-, ht⟩ <;> rw [State.runMicros_cons, ht]
  · exact hnext
  · exact hrest ((kept_busLogged s).spend _ hnext)

/-- At every point of a walk the discipline has been kept. -/
theorem BusWalk.holds {b k : Bool} {fs : List (State → State)} (hwalk : BusWalk b k fs)
    (hport : u.cfg.hasExpansion = true) (hbusen : u.busen = b) (hacked : u.acked = k)
    (h : BusLogged s u) : (State.runMicros fs u).Holds (BusLogged s) := by
  have hspend : ∀ u : State, u.others.spend.acked = u.acked := by simp [State.acked]
  induction hwalk generalizing u with
  | nil => exact h
  | level hf _ ih =>
    refine h.runMicros_cons fun hu => ?_
    obtain ⟨hlog, hb, hk, hc⟩ := hf u.others.spend
    exact ih (by simpa [hc] using hport) (by simpa [hb] using hbusen)
      (by rw [hk, hspend, hacked]) (hu.trans hlog)
  | busen w hw _ ih =>
    refine h.runMicros_cons fun hu => ih (by simpa using hport) (by simp) ?_
      (hu.trans (busLogged_drive_busen (by rw [hspend, hacked, hw])))
    simpa [State.acked] using hacked
  | ack w hw _ ih =>
    exact h.runMicros_cons fun hu => ih (by simpa using hport) (by simpa using hbusen)
      (by simp [State.acked, hport])
      (hu.trans (busLogged_drive_ack (by simpa using hport) (by simp [hbusen, hw])))
  | cycle a w _ ih =>
    refine h.runMicros_cons fun hu => ih (by simpa using hport) (by simpa using hbusen) ?_
      (hu.trans (busLogged_writeEffect a w ((State.busFree_iff _).2 ⟨by simpa using hbusen, by
        rw [hspend, hacked]⟩)))
    simpa [State.acked] using hacked

theorem keepsLevels_of_silent {f : State → State} (hf : ∀ u, (f u).hist = u.hist ∧
    (f u).busen = u.busen ∧ (f u).acked = u.acked ∧ (f u).cfg = u.cfg) : KeepsLevels f := by
  intro u
  obtain ⟨hhist, hb, hk, hc⟩ := hf u
  exact ⟨(BusLogged.refl u).silent hhist hb hk, hb, hk, hc⟩

theorem keepsLevels_drive_int (w : Bool) : KeepsLevels (State.drive .int w) := fun u =>
  ⟨⟨_, State.drive_hist _ _ u, rfl⟩, rfl, rfl, rfl⟩

theorem keepsLevels_pulse (src : IntSource) : KeepsLevels (State.emit (.intPulse src)) := fun u =>
  ⟨⟨_, State.emit_hist _ u, rfl⟩, rfl, rfl, rfl⟩

theorem keepsLevels_id : KeepsLevels id := keepsLevels_of_silent fun _ => ⟨rfl, rfl, rfl, rfl⟩

theorem keepsLevels_setArbPhase (p : ArbPhase) : KeepsLevels (State.setArbPhase p) :=
  keepsLevels_of_silent fun _ => ⟨rfl, rfl, rfl, rfl⟩

theorem keepsLevels_setWasRunning (w : Bool) : KeepsLevels (State.setFlag .arbWasRunning w) :=
  keepsLevels_of_silent fun _ => ⟨rfl, rfl, rfl, rfl⟩

theorem keepsLevels_clearAndComplete : KeepsLevels clearAndComplete :=
  keepsLevels_of_silent fun _ => ⟨rfl, rfl, rfl, rfl⟩

theorem servicePlan_busWalk (c : Config) (latched running b : Bool) :
    BusWalk b false (servicePlan c latched running none).steps := by
  cases latched with
  | false => exact .level (keepsLevels_of_silent fun _ => ⟨rfl, rfl, rfl, rfl⟩) .nil
  | true =>
    cases running with
    | false => exact .level keepsLevels_id <| .level keepsLevels_clearAndComplete .nil
    | true =>
      exact .level keepsLevels_id <| .busen false rfl <| .cycle _ _ <| .busen true rfl <|
        .level (keepsLevels_drive_int true) <| .level (keepsLevels_drive_int false) <|
        .level (keepsLevels_pulse _) <| .level keepsLevels_clearAndComplete .nil

/-- ACK is raised after BUSEN is cleared (R303). -/
theorem handshakeEntry_busWalk (running : Bool) :
    BusWalk running false (handshakeEntrySteps running) := by
  cases running with
  | false =>
    exact .level (keepsLevels_setWasRunning _) <| .ack true rfl <|
      .level (keepsLevels_setArbPhase _) .nil
  | true =>
    exact .level (keepsLevels_setWasRunning _) <| .busen false rfl <| .ack true rfl <|
      .level (keepsLevels_setArbPhase _) .nil

/-- ACK is cleared before BUSEN is raised (R305). -/
theorem handshakeExit_busWalk {fs : List (State → State)} (running : Bool)
    (h : ∀ b, BusWalk b false fs) : BusWalk false true (handshakeExitSteps running ++ fs) := by
  have hend : ∀ b, BusWalk b false
      ([State.setArbPhase .idle, State.setFlag .arbWasRunning false] ++ fs) := fun b =>
    .level (keepsLevels_setArbPhase _) <| .level (keepsLevels_setWasRunning _) (h b)
  cases running with
  | false => exact .ack false rfl (hend false)
  | true => exact .ack false rfl <| .busen true rfl (hend true)

end

end Sys2Proof.Safety
end

section
namespace Sys2Proof.Safety

open Sys2Proof.Machine

/-! ### The bus discipline of each command -/

section

variable {s u t : State}

/-- What the cycles that can run keep, the commands that only make cycles keep. -/
theorem exec_cycles_keeps_of_linkCheck {P : State → Prop} {i : Instr} (hP : Kept P)
    (hwrite : ∀ a v u, u.linkCheck = none → P u → P (u.writeEffect a v))
    (hread : ∀ a u, u.linkCheck = none → P u → P (u.readEffect a)) (hq : ∀ v u, P u → P (u.setQ v))
    (hstring : ∀ buf b u, P u → P (u.setString buf b)) (hi : isStore i = true ∨ isRead i = true)
    (h : P s) (hexec : exec i s = .next t) : P t := by
  have body : ∀ k : State → Result Unit, exec i s = (s.requireInit.bind fun _ u => k u).finish →
      (∀ u, P u → (k u).Holds P) → P t := fun k hk hbody =>
    hP.finish ((hP.requireInit h).bind fun _ => hbody) (hk ▸ hexec)
  have put : ∀ a v u, P u → (u.writeCycle a v).Holds P := fun a v _ hu =>
    hP.writeCycle (fun w _ => hwrite a v w) hu
  have puts : ∀ ws u, P u → (State.writeBytes ws u).Holds P := fun _ _ hu =>
    hP.writeBytes (fun p _ => hwrite p.1 p.2) hu
  have get : ∀ a u, P u → (u.readCycle a).Holds P := fun a _ hu => hP.readCycle (hread a) hu
  have result : ∀ v u, P u → (Result.ok () (State.setQ v u)).Holds P := hq
  cases i with
  | wrb a d => exact body _ rfl (put a d)
  | wrw a d | wrl a d | wrt a d => exact body _ rfl (puts _)
  | vwrb a d => exact body _ rfl fun u hu => (hP.routeVideo hu).bind fun p => put p d
  | rdb a => exact body _ rfl fun u hu => (get a u hu).bind fun _ => result _
  | rdw a =>
    exact body _ rfl fun u hu => (get a u hu).bind fun _ w hw => (get _ w hw).bind fun _ => result _
  | rds a n =>
    refine body _ rfl fun u hu => hP.readString hread hstring ?_
    unfold State.startString
    split
    · exact hstring _ _ u hu
    · exact hu
  | vxl a => exact body _ rfl fun u hu => (hP.routeVideo hu).bind fun _ => result _
  | vrdb a =>
    exact body _ rfl fun u hu => (hP.routeVideo hu).bind fun p w hw =>
      (get p w hw).bind fun _ => result _
  | _ => simp [isStore, isRead] at hi

/-- A POLL after INIT, between two commands or in the hold. -/
theorem exec_poll_busLogged (hsettled : Settled s) (hinit : s.initialised = true)
    (h : BusLogged u s) (hexec : exec .poll s = .next t) : BusLogged u t := by
  have hkept := kept_busLogged u
  have hfree := hsettled.uncontended hinit
  obtain ⟨-, -, -, -, -, -, -, -, -, -, -, -, -, hidle, hheld⟩ := hsettled.2.1 hinit
  by_cases hhold : s.arbPhase = .acked ∧ s.others.req = true
  · rw [exec_poll_of_holding hhold.1 hhold.2] at hexec
    cases hexec
    exact hkept.others s h
  rw [exec_poll_eq_plan (by simpa using hhold)] at hexec
  refine Kept.pause (P := BusLogged u) ?_ hexec
  cases hphase : s.arbPhase with
  | acked =>
    obtain ⟨hacked, hbusen, -⟩ := hheld hphase
    rw [pollPlan_of_held hphase, linkCheck_released hfree.1, Plan.steps_after]
    have hport : s.cfg.hasExpansion = true := by
      rw [State.acked, Bool.and_eq_true] at hacked
      exact hacked.1
    exact (BusWalk.level keepsLevels_id (handshakeExit_busWalk s.arbWasRunning fun _ =>
      servicePlan_busWalk _ _ _ _)).holds hport hbusen hacked h
  | idle =>
    obtain ⟨hacked, hbusen, -⟩ := hidle hphase
    cases hport : s.cfg.hasExpansion with
    | false =>
      rw [pollPlan_of_noPort hphase hinit hport]
      exact hkept.runMicros (by simpa [Plan.steps] using hkept.complete) h
    | true =>
      cases hreq : (State.waits 2 s).req with
      | true =>
        rw [pollPlan_of_request hphase hinit hport hreq]
        exact (BusWalk.level keepsLevels_id <| .level keepsLevels_id
          (handshakeEntry_busWalk s.isRunning)).holds hport hbusen hacked h
      | false =>
        rw [pollPlan_of_no_request hphase hinit hport hreq, linkCheck_paused hfree.1 hacked,
          Plan.steps_after]
        exact (BusWalk.level keepsLevels_id <| .level keepsLevels_id
          (servicePlan_busWalk _ _ _ s.busen)).holds hport rfl hacked h

/-- After INIT a second INIT only raises (60_exceptions R345). -/
theorem exec_init_busLogged (hinit : s.initialised = true) (h : BusLogged u s)
    (hexec : exec .init s = .next t) : BusLogged u t := by
  have hkept := kept_busLogged u
  have hrefused : ∀ w : State, w.initialised = true → BusLogged u w →
      Result.Holds (BusLogged u) (if w.initialised then Result.stop (w.raise .reinit)
        else State.runMicros (initSteps w.cfg w.setting0 w.setting1) w) := by
    intro w hw hlog
    rw [if_pos hw]
    exact hkept.raise _ w hlog
  refine hkept.finish (r := s.turn.bind _) ?_ hexec
  have hturn := hkept.turn h
  rcases s.turn_cases with ⟨-, ht⟩ | ⟨-, ht⟩ <;> rw [ht] at hturn ⊢
  · exact hturn
  · exact hrefused _ (by simpa using hinit) hturn

theorem exec_busLogged {i : Instr} (hsettled : Settled s) (hphase : s.arbPhase = .idle)
    (hinit : s.initialised = true) (h : BusLogged u s) (hexec : exec i s = .next t) :
    BusLogged u t := by
  have hoff : OffBus u s := ⟨h, (hsettled.uncontended hinit).2 hphase⟩
  have hkept := kept_offBus u
  have hcycles : isStore i = true ∨ isRead i = true → BusLogged u t := fun hi =>
    exec_cycles_keeps_of_linkCheck (kept_busLogged u)
      (fun a v w hcheck hw => hw.trans
        (busLogged_writeEffect a v ((State.linkCheck_eq_none_iff w).1 hcheck).2))
      (fun a w hcheck hw => hw.trans
        (busLogged_readEffect a ((State.linkCheck_eq_none_iff w).1 hcheck).2))
      (fun _ _ hw => hw) (fun _ _ _ hw => hw) hi h hexec
  cases i with
  | wrb _ _ | wrw _ _ | wrl _ _ | wrt _ _ | vwrb _ _ => exact hcycles (.inl rfl)
  | rdb _ | rdw _ | rds _ _ | vxl _ | vrdb _ => exact hcycles (.inr rfl)
  | init => exact exec_init_busLogged hinit h hexec
  | hrst => exact (exec_hrst_keeps hkept offBus_hrstSteps hoff hexec).1
  | run =>
    exact (exec_run_keeps hkept (fun p _ _ hcheck hw => hw.writeEffect p.1 p.2 hcheck)
      offBus_releaseSteps hoff hexec).1
  | stop => exact (exec_stop_keeps hkept offBus_stopSteps hoff hexec).1
  | sarch x => exact (exec_sarch_keeps hkept (offBus_sarchSteps x) hoff hexec).1
  | sspd x => exact (exec_sspd_keeps hkept (offBus_sspdSteps x) hoff hexec).1
  | poll => exact exec_poll_busLogged hsettled hinit h hexec

/-- Settles O19: the other agents keep the discipline at every boundary, and each command at every
micro-step. -/
theorem historyRespectsBusOwnership : Obligations.HistoryRespectsBusOwnership := by
  intro s t h hinit hstep
  change BusLogged s t
  rcases step_cases hstep with ⟨-, rfl⟩ | ⟨⟨-, -, hd⟩, hcases⟩
  · exact (kept_busLogged s).others s (.refl s)
  have hsettled : Settled s := ⟨((machineInv_iff s).1 h).1, ((machineInv_iff s).1 h).2 hd⟩
  rcases hcases with ⟨-, hexec⟩ | ⟨hphase, i, rest, -, hexec⟩ | ⟨-, r, -, -, rfl⟩
  · exact exec_poll_busLogged hsettled hinit (.refl s) hexec
  · exact exec_busLogged (hsettled.fetch rest i) (by simpa using hphase) (by simpa using hinit)
      ((BusLogged.refl s).silent (by simp) (by simp) (by simp [State.acked])) hexec
  · exact (BusLogged.refl s).silent rfl rfl rfl

end

end Sys2Proof.Safety
end

section
/-! The exceptions family (60_exceptions): what a step adds to the history, how a command ends, and the
moves of the tick and the doorbell. -/

namespace Sys2Proof.Safety

open Sys2Proof.Machine

/-! ### What the history gains (10_state R49) -/

/-- The history of `s` has only grown, while `R` stood by events of `Q` only. -/
def Adds (R : State → Prop) (Q : Event → Prop) (s u : State) : Prop :=
  ∃ ev, u.hist = s.hist ++ ev ∧ (R s → ∀ e ∈ ev, Q e)

/-- The history has only grown so, and `R` still stands if it stood. -/
def Quiet (R : State → Prop) (Q : Event → Prop) (s u : State) : Prop :=
  Adds R Q s u ∧ (R s → R u)

/-- No boundary ends `R` or, while `R` stands, adds an event outside `Q`; nor does a host micro-step end
`R` that leaves the schedule alone and does not arm the tick. `Q` allows the host's own events. -/
structure Undisturbed (R : State → Prop) (Q : Event → Prop) : Prop where
  others : ∀ u, Quiet R Q u u.others
  stands : ∀ u v : State, v.schedule = u.schedule → v.endless = u.endless →
    (v.tickArmed = u.tickArmed ∨ v.tickArmed = false) → R u → R v
  host : ∀ e, hostEvent e = true → Q e

/-- What a micro-step adds to the history is events of `Q`, and it neither moves the schedule nor arms the
tick. -/
structure EmitsOnly (Q : Event → Prop) (u v : State) : Prop where
  hist : ∃ new, v.hist = u.hist ++ new ∧ ∀ e ∈ new, Q e
  schedule : v.schedule = u.schedule
  endless : v.endless = u.endless
  tick : v.tickArmed = u.tickArmed ∨ v.tickArmed = false

section

variable {R : State → Prop} {Q : Event → Prop} {s t u v : State}

theorem Quiet.adds (h : Quiet R Q s u) (huv : Adds R Q u v) : Adds R Q s v := by
  obtain ⟨⟨ev, hu, hev⟩, hstands⟩ := h
  obtain ⟨new, hv, hnew⟩ := huv
  refine ⟨ev ++ new, by rw [hv, hu, List.append_assoc], fun hs => ?_⟩
  exact List.forall_mem_append.2 ⟨hev hs, hnew (hstands hs)⟩

theorem Quiet.trans (h : Quiet R Q s u) (huv : Quiet R Q u v) : Quiet R Q s v :=
  ⟨h.adds huv.1, huv.2 ∘ h.2⟩

theorem Quiet.refl (s : State) : Quiet R Q s s := ⟨⟨[], by simp, by simp⟩, id⟩

theorem EmitsOnly.adds (h : EmitsOnly Q u v) : Adds R Q u v := by
  obtain ⟨new, hhist, hnew⟩ := h.hist
  exact ⟨new, hhist, fun _ => hnew⟩

theorem Quiet.micro (hR : Undisturbed R Q) (h : Quiet R Q s u) (huv : EmitsOnly Q u v) :
    Quiet R Q s v :=
  h.trans ⟨huv.adds, hR.stands u v huv.schedule huv.endless huv.tick⟩

/-! ### The events of a micro-step -/

theorem emitsOnly_silent (hhist : v.hist = u.hist) (hsched : v.schedule = u.schedule)
    (hend : v.endless = u.endless) (htick : v.tickArmed = u.tickArmed ∨ v.tickArmed = false) :
    EmitsOnly Q u v :=
  ⟨⟨[], by simpa using hhist, by simp⟩, hsched, hend, htick⟩

theorem emitsOnly_one {e : Event} (he : Q e) (hhist : v.hist = u.hist ++ [e])
    (hsched : v.schedule = u.schedule) (hend : v.endless = u.endless)
    (htick : v.tickArmed = u.tickArmed) : EmitsOnly Q u v :=
  ⟨⟨[e], hhist, by simpa using he⟩, hsched, hend, .inl htick⟩

theorem emitsOnly_emit {e : Event} (he : Q e) (u : State) : EmitsOnly Q u (u.emit e) :=
  emitsOnly_one he rfl rfl rfl rfl

theorem emitsOnly_drive {l : Line} {w : Bool} (he : Q (.line l w)) (u : State) :
    EmitsOnly Q u (u.drive l w) :=
  emitsOnly_one he (State.drive_hist l w u) (by simp) (by simp) (by simp)

theorem emitsOnly_setFlag {f : Flag} {w : Bool} (hf : f ≠ .tickArmed ∨ w = false) (u : State) :
    EmitsOnly Q u (u.setFlag f w) := by
  refine emitsOnly_silent (by simp) (by simp) (by simp) ?_
  cases f <;> simp_all

theorem emitsOnly_writeEffect (hR : Undisturbed R Q) (a : Addr) (w : Byte) (u : State) :
    EmitsOnly Q u (u.writeEffect a w) :=
  emitsOnly_one (hR.host _ rfl) (State.writeEffect_hist a w u) (by simp) (by simp) (by simp)

theorem emitsOnly_readEffect (hR : Undisturbed R Q) (a : Addr) (u : State) :
    EmitsOnly Q u (u.readEffect a) :=
  emitsOnly_one (hR.host _ rfl) (State.readEffect_hist a u) (by simp) (by simp) (by simp)

theorem emitsOnly_raise (hR : Undisturbed R Q) (c : FaultCode) (u : State) : EmitsOnly Q u (u.raise c) := by
  unfold State.raise
  split
  · exact emitsOnly_one (hR.host (.fault c) rfl) rfl rfl rfl rfl
  · exact emitsOnly_silent rfl rfl rfl (.inl rfl)

/-- A line the tick does not drive. -/
theorem Undisturbed.line (hR : Undisturbed R Q) {l : Line} (hl : l ≠ .int) (w : Bool) :
    Q (.line l w) :=
  hR.host _ (by cases l <;> simp_all [hostEvent])

theorem Undisturbed.kept (hR : Undisturbed R Q) (s : State) : Kept (Quiet R Q s) where
  others u h := h.trans (hR.others u)
  spend u h := h.micro hR (emitsOnly_silent (by simp) (by simp) (by simp) (by simp))
  raise c u h := h.micro hR (emitsOnly_raise hR c u)
  complete u h := h.micro hR (emitsOnly_silent rfl rfl rfl (.inl rfl))

/-! ### The micro-steps of each command -/

/-- The micro-steps of a list are as `EmitsOnly` says. -/
def AllEmit (Q : Event → Prop) (fs : List (State → State)) : Prop := ∀ f ∈ fs, ∀ u, EmitsOnly Q u (f u)

theorem AllEmit.quiet {fs : List (State → State)} (h : AllEmit Q fs) (hR : Undisturbed R Q) :
    ∀ f ∈ fs, ∀ u, Quiet R Q s u → Quiet R Q s (f u) :=
  fun f hf u hu => hu.micro hR (h f hf u)

/-- A script emits what its events say, and a mirror the level of its line. -/
theorem allEmit_of_script {x : Arch} {y : Speed} {fs : List (State → State)} {es : List Event}
    (h : Script x y fs es) (hR : Undisturbed R Q) (hes : ∀ e ∈ es, hostEvent e = true ∨ Q e)
    (htick : ∀ f ∈ fs, ∀ u, (f u).tickArmed = u.tickArmed ∨ (f u).tickArmed = false) :
    AllEmit Q fs := by
  have hQ : ∀ e, hostEvent e = true ∨ Q e → Q e := fun e he => he.elim (hR.host e) id
  induction h with
  | nil => simp [AllEmit]
  | flag _ _ _ ih | runstate _ _ ih | phase _ _ ih | wire _ _ _ ih | setting _ _ _ ih
  | arch _ _ ih | speed _ _ ih =>
    rw [List.forall_mem_cons] at htick
    exact List.forall_mem_cons.2
      ⟨fun u => emitsOnly_silent (by simp) (by simp) (by simp) (htick.1 u), ih hes htick.2⟩
  | emit e _ ih | drive _ _ _ ih | delay _ _ ih =>
    rw [List.forall_mem_cons] at htick hes
    exact List.forall_mem_cons.2
      ⟨fun u => emitsOnly_one (hQ _ hes.1) (by simp) (by simp) (by simp) (by simp), ih hes.2 htick.2⟩
  | mirrorArch _ ih | mirrorSpeed _ ih =>
    rw [List.forall_mem_cons] at htick hes
    exact List.forall_mem_cons.2
      ⟨fun u => emitsOnly_drive (hR.line (by simp) _) u, ih hes.2 htick.2⟩

theorem allEmit_hrstSteps (hR : Undisturbed R Q) : AllEmit Q hrstSteps :=
  allEmit_of_script (hrstSteps_script .arch6502 .normal) hR
    (by simp [guestPulseEvents, hostEvent]) (by simp [hrstSteps, guestPulseSteps])

theorem allEmit_stopSteps (hR : Undisturbed R Q) : AllEmit Q stopSteps :=
  allEmit_of_script (stopSteps_script .arch6502 .normal) hR (by simp [hostEvent])
    (by simp [stopSteps])

theorem allEmit_sarchSteps (hR : Undisturbed R Q) (x : Arch) : AllEmit Q (sarchSteps x) :=
  allEmit_of_script (sarchSteps_script x x .normal) hR (by simp [hostEvent]) (by simp [sarchSteps])

theorem allEmit_sspdSteps (hR : Undisturbed R Q) (x : Speed) : AllEmit Q (sspdSteps x) :=
  allEmit_of_script (sspdSteps_script x x .arch6502) hR (by simp [hostEvent]) (by simp [sspdSteps])

theorem initSteps_tick (c : Config) (b0 b1 : Byte) : ∀ f ∈ initSteps c b0 b1, ∀ u : State,
    (f u).tickArmed = u.tickArmed ∨ (f u).tickArmed = false := by
  simp only [initSteps, List.forall_mem_append]
  refine ⟨⟨⟨⟨by simp, ?arch⟩, ?speed⟩, ?lines⟩, ?flags⟩
  case arch => unfold loadArchSteps; split <;> simp
  case speed => unfold loadSpeedSteps; split <;> simp
  case lines => cases hport : c.hasExpansion <;> simp [idleLineSteps, hport]
  case flags => cases hport : c.hasExpansion <;> simp [initFlagSteps, hport]

/-- INIT drives INT itself (44_cpu_lifecycle R244). -/
theorem allEmit_initSteps (hR : Undisturbed R Q) (hint : Q (.line .int false)) (w : State) :
    AllEmit Q (initSteps w.cfg w.setting0 w.setting1) := by
  refine allEmit_of_script (initSteps_script w w.arch w.speed) hR ?_ (initSteps_tick _ _ _)
  unfold initEvents
  split_ifs <;> simp [hostEvent, hint]

/-- The micro-steps of RUN before it arms the tick, its last (44_cpu_lifecycle R264). -/
def releaseFront : List (State → State) :=
  [State.setRunstate .running, State.drive .reset true, State.delay .resetPulse,
    State.drive .reset false, State.drive .busen true]

theorem releaseSteps_eq (c : Config) : releaseSteps c =
    releaseFront ++ if c.tickBuildEnabled then [State.setFlag .tickArmed true] else [] := rfl

theorem allEmit_releaseFront (hR : Undisturbed R Q) : AllEmit Q releaseFront := by
  have hscript : Script .arch6502 .normal releaseFront
      [.line .reset true, .delay .resetPulse, .line .reset false, .line .busen true] :=
    .runstate .running <| .drive .reset true <| .delay .resetPulse <| .drive .reset false <|
      .drive .busen true .nil
  exact allEmit_of_script hscript hR (by simp [hostEvent]) (by simp [releaseFront])

/-- A delivery to a running guest drives INT itself (45_expansion_arbiter R311). -/
theorem pollKeeps_quiet (hR : Undisturbed R Q) (hint : ∀ w, Q (.line .int w)) (s : State) :
    PollKeeps (Quiet R Q s) where
  wasRunning w u h := h.micro hR (emitsOnly_setFlag (.inl (by simp)) u)
  latch u h := h.micro hR (emitsOnly_setFlag (.inr rfl) u)
  phase p u h := h.micro hR (emitsOnly_silent rfl rfl rfl (.inl rfl))
  line l w u hl h := by
    refine h.micro hR (emitsOnly_drive ?_ u)
    by_cases hline : l = .int
    · exact hline ▸ hint w
    · exact hR.line hline w
  pulse u h := h.micro hR (emitsOnly_emit (hR.host _ rfl) u)
  cycle u _ h := h.micro hR (emitsOnly_writeEffect hR _ _ u)

/-! ### Every command, every step -/

/-- What holds where a command has come to, and weaker what follows from there. -/
theorem holds_bind_of_imp {α β : Type} {P P' : State → Prop} {r : Result α}
    {k : α → State → Result β} (h : r.Holds P) (hP : ∀ w, P w → P' w)
    (hk : ∀ x w, P w → (k x w).Holds P') : (r.bind k).Holds P' := by
  cases r with
  | ok x w => exact hk x w h
  | stop w => exact hP w h

theorem adds_of_finish {r : Result Unit} (h : r.Holds (Adds R Q s)) (hr : r.finish = .next t) :
    Adds R Q s t := by
  cases r <;> cases hr <;> exact h

/-- RUN arms the tick where no boundary of it follows. -/
theorem exec_run_adds (hR : Undisturbed R Q) (hexec : exec .run s = .next t) : Adds R Q s t := by
  have hkept := hR.kept s
  have hweak : ∀ w, Quiet R Q s w → Adds R Q s w := fun _ hw => hw.1
  have harm : ∀ (c : Config) w, Quiet R Q s w → (State.runMicros
      (if c.tickBuildEnabled then [State.setFlag .tickArmed true] else []) w).Holds (Adds R Q s) := by
    intro c w hw
    split
    · exact holds_bind_of_imp (hkept.turn hw) hweak fun _ _ hv => show Adds R Q s _ from hv.1
    · exact hweak w hw
  have hrelease : ∀ w, Quiet R Q s w →
      (State.runMicros (releaseSteps w.cfg) w).Holds (Adds R Q s) := by
    intro w hw
    rw [releaseSteps_eq, State.runMicros_append]
    exact holds_bind_of_imp (hkept.runMicros ((allEmit_releaseFront hR).quiet hR) hw) hweak
      fun _ => harm w.cfg
  have hboot : ∀ w, Quiet R Q s w →
      (State.writeBytes (bootBytes w.cfg w.arch) w).Holds (Quiet R Q s) := fun _ =>
    hkept.writeBytes fun p _ v _ hv => hv.micro hR (emitsOnly_writeEffect hR p.1 p.2 v)
  have hbody : Result.Holds (Adds R Q s) (s.requireInit.bind fun _ w =>
      (State.writeBytes (bootBytes w.cfg w.arch) w).bind fun _ w =>
        State.runMicros (releaseSteps w.cfg) w) :=
    holds_bind_of_imp (hkept.requireInit (.refl s)) hweak fun _ w hw =>
      holds_bind_of_imp (hboot w hw) hweak fun _ => hrelease
  exact adds_of_finish hbody hexec

theorem exec_adds {i : Instr} (hR : Undisturbed R Q)
    (hint : i = .init ∨ i = .poll → ∀ w, Q (.line .int w)) (hexec : exec i s = .next t) :
    Adds R Q s t := by
  have hkept := hR.kept s
  have hstart : Quiet R Q s s := .refl s
  have hcycles : isStore i = true ∨ isRead i = true → Adds R Q s t := fun hi =>
    (exec_cycles_keeps hkept (fun a w u hu => hu.micro hR (emitsOnly_writeEffect hR a w u))
      (fun a u hu => hu.micro hR (emitsOnly_readEffect hR a u))
      (fun _ _ hu => hu.micro hR (emitsOnly_silent rfl rfl rfl (.inl rfl)))
      (fun _ _ _ hu => hu.micro hR (emitsOnly_silent rfl rfl rfl (.inl rfl))) hi hstart hexec).1
  cases i with
  | wrb _ _ | wrw _ _ | wrl _ _ | wrt _ _ | vwrb _ _ => exact hcycles (.inl rfl)
  | rdb _ | rdw _ | rds _ _ | vxl _ | vrdb _ => exact hcycles (.inr rfl)
  | init =>
    exact (exec_init_keeps hkept (fun w _ => (allEmit_initSteps hR (hint (.inl rfl) _) w).quiet hR)
      hstart hexec).1
  | hrst => exact (exec_hrst_keeps hkept ((allEmit_hrstSteps hR).quiet hR) hstart hexec).1
  | run => exact exec_run_adds hR hexec
  | stop => exact (exec_stop_keeps hkept ((allEmit_stopSteps hR).quiet hR) hstart hexec).1
  | sarch x => exact (exec_sarch_keeps hkept ((allEmit_sarchSteps hR x).quiet hR) hstart hexec).1
  | sspd x => exact (exec_sspd_keeps hkept ((allEmit_sspdSteps hR x).quiet hR) hstart hexec).1
  | poll => exact (exec_poll_keeps (pollKeeps_quiet hR (hint (.inr rfl)) s) hkept hstart hexec).1

end

/-! ### TickFire (60_exceptions R362) -/

theorem undisturbed_tick : Undisturbed (fun u => u.tickArmed = false) (· ≠ .tickFire) where
  others u := by
    obtain ⟨ev, hhist, -, -, hno⟩ := u.others_hist
    exact ⟨⟨ev, hhist, fun hoff e he heq => hno hoff (heq ▸ he)⟩, by simp⟩
  stands u v _ _ htick hoff := htick.elim (·.trans hoff) id
  host e he heq := by subst heq; cases he

/-- Settles O20: no boundary of a step whose tick is disarmed fires it, and RUN arms the tick after its last
boundary. -/
theorem noTickFiresWhileDisarmed : Obligations.NoTickFiresWhileDisarmed := by
  intro s t hstep
  suffices h : Adds (fun u => u.tickArmed = false) (· ≠ .tickFire) s t by
    obtain ⟨ev, hhist, hno⟩ := h
    exact ⟨ev, hhist, fun hoff hmem => hno hoff _ hmem rfl⟩
  have hexec : ∀ i u, exec i u = .next t → Adds (fun u => u.tickArmed = false) (· ≠ .tickFire) u t :=
    fun i u => exec_adds undisturbed_tick (by simp)
  rcases step_cases hstep with ⟨-, rfl⟩ | ⟨-, ⟨-, hpoll⟩ | ⟨-, i, rest, -, hrun⟩ | ⟨-, r, -, -, rfl⟩⟩
  · exact (undisturbed_tick.others s).1
  · exact hexec .poll s hpoll
  · simpa [Adds] using hexec i _ hrun
  · exact ⟨[], by simp [State.markRefused], by simp⟩

end Sys2Proof.Safety
end

section
namespace Sys2Proof.Safety

open Sys2Proof.Machine

/-! ### How a command ends (60_exceptions R341, R346, R351) -/

/-- A point inside a command: it has not been counted, nor raised a fault, and a served host goes on to be
served. -/
structure Uncounted (s u : State) : Prop where
  cpos : u.cpos = s.cpos
  fault : u.fault = s.fault
  served : HostServed s → HostServed u

/-- A command's micro-steps so far, each uncounted; where the host goes no further the command ends
precisely. -/
def Ends (s : State) : Result Unit → Prop
  | .ok _ u => Uncounted s u
  | .stop t => ∃ k, EndsPrecisely k s t

section

variable {s t u v : State}

theorem Uncounted.trans (h : Uncounted s u) (huv : Uncounted u v) : Uncounted s v :=
  ⟨huv.cpos.trans h.cpos, huv.fault.trans h.fault, huv.served ∘ h.served⟩

theorem uncounted_others (u : State) : Uncounted u u.others :=
  ⟨by simp, by simp, by simp [HostServed]⟩

theorem uncounted_spend (u : State) : Uncounted u u.spend :=
  ⟨by simp, by simp, fun h => by rw [State.spend_of_served h]; exact h⟩

theorem uncounted_of_script {x : Arch} {y : Speed} {fs : List (State → State)} {es : List Event}
    (h : Script x y fs es) : ∀ f ∈ fs, ∀ u, Uncounted u (f u) := by
  induction h with
  | nil => simp
  | _ => exact List.forall_mem_cons.2 ⟨fun u => ⟨by simp, by simp, by simp [HostServed]⟩, by assumption⟩

theorem Pristine.uncounted {k : Nat} (h : Pristine k s u) : Uncounted s u := by
  obtain ⟨share, rfl, hnone⟩ := h
  exact ⟨by simp, by simp, hnone⟩

theorem Uncounted.endsPrecisely (h : Uncounted s t) (hd : HostDenied t) (k : Nat) :
    EndsPrecisely k s t := by
  refine .inr (.inr ⟨fun hs => ?_, hd, h.cpos, h.fault⟩)
  have hserved := h.served hs
  rw [HostServed, hd] at hserved
  cases hserved

theorem Pristine.ends_raise {k : Nat} (c : FaultCode) (h : Pristine k s u) :
    Ends s (.stop (u.raise c)) :=
  ⟨k, .inr (.inl (h.raise c))⟩

theorem Ends.bind {r : Result Unit} {body : Unit → State → Result Unit} (h : Ends s r)
    (hbody : ∀ x u, Uncounted s u → Ends s (body x u)) : Ends s (r.bind body) := by
  cases r with
  | ok x u => exact hbody x u h
  | stop t => exact h

theorem Ends.finish {r : Result Unit} (h : Ends s r) (hr : r.finish = .next t) :
    ∃ k, EndsPrecisely k s t := by
  cases r with
  | ok x u =>
    cases hr
    exact ⟨0, .inl ⟨congrArg (· + 1) h.cpos, h.fault⟩⟩
  | stop w =>
    cases hr
    exact h

/-- The write cycles of a command raise only before its first effect. -/
theorem ends_of_framed {P Q : State → Prop} {addrs : List Addr} {r : Result Unit}
    (h : Framed P Q addrs s r) : Ends s r := by
  cases r with
  | ok x u =>
    obtain ⟨k, hu⟩ := h
    obtain ⟨⟨-, -, -, -, -, -, -, -, hserved⟩, -⟩ := hu.rest
    exact ⟨hu.cpos, hu.fault, hserved⟩
  | stop t =>
    obtain ⟨k, hframe, hcut | hfault⟩ := h
    · exact ⟨k, .inr (.inr ⟨hframe.rest.not_served hcut.1, hcut⟩)⟩
    · exact ⟨k, .inr (.inl hfault)⟩

/-- A script raises nothing: it runs to its end or its host is denied inside it. -/
theorem Uncounted.ends_script {x : Arch} {y : Speed} {fs : List (State → State)} {es : List Event}
    (h : Uncounted s u) (hscript : Script x y fs es) : Ends s (State.runMicros fs u) := by
  have hholds : (State.runMicros fs u).Holds (Uncounted s) :=
    State.runMicros_induct (fun _ hw => hw.trans (uncounted_others _))
      (fun _ hw => hw.trans (uncounted_spend _)) fs
      (fun f hf w hw => hw.trans (uncounted_of_script hscript f hf w)) h
  rcases State.runMicros_cases fs u with ⟨w, hr, hd⟩ | hr <;> rw [hr] at hholds ⊢
  · exact ⟨0, hholds.endsPrecisely hd 0⟩
  · exact hholds

/-- A command whose first turn is followed by a body that ends precisely. -/
theorem ends_turn {body : State → Result Unit} (hbody : ∀ u, Pristine 1 s u → Ends s (body u)) :
    Ends s (s.turn.bind fun _ u => body u) := by
  have hstart : Pristine 0 s s := ⟨s.hostShare, rfl, id⟩
  rcases s.turn_cases with ⟨hd, ht⟩ | ⟨-, ht⟩ <;> rw [ht]
  · exact ⟨1, (uncounted_others s).endsPrecisely (by simpa [HostDenied] using hd) 1⟩
  · exact hbody _ hstart.others.spend

theorem ends_requireInit {body : State → Result Unit}
    (hbody : ∀ u, Pristine 1 s u → Ends s (body u)) :
    Ends s (s.requireInit.bind fun _ u => body u) := by
  rw [State.requireInit, Result.bind_assoc]
  refine ends_turn fun u hu => ?_
  split
  · exact hbody u hu
  · exact hu.ends_raise .notInitialised

/-- Every command but POLL ends precisely (60_exceptions R346). -/
theorem exec_endsPrecisely {i : Instr} (hi : i ≠ .poll) (hexec : exec i s = .next t) :
    ∃ k, EndsPrecisely k s t := by
  have script : ∀ {x y fs es}, Script x y fs es → ∀ u, Pristine 1 s u →
      Ends s (State.runMicros fs u) := fun hscript _ hu => hu.uncounted.ends_script hscript
  cases i with
  | wrb _ _ | wrw _ _ | wrl _ _ | wrt _ _ | vwrb _ _ =>
    obtain ⟨k, -, -, -, -, -, hends, -⟩ := storeCommandsKeepTheRest _ s t rfl hexec
    exact ⟨k, hends⟩
  | rdb _ | rdw _ | rds _ _ | vxl _ | vrdb _ =>
    obtain ⟨k, -, -, hends, -⟩ := readCommandsKeepTheRest _ s t rfl hexec
    exact ⟨k, hends⟩
  | init =>
    refine (ends_turn fun u hu => ?_).finish hexec
    split
    · exact hu.ends_raise .reinit
    · exact script (initSteps_script u u.arch u.speed) u hu
  | hrst => exact (ends_requireInit (script (hrstSteps_script s.arch s.speed))).finish hexec
  | run =>
    exact (ends_requireInit fun u hu => (ends_of_framed (framed_writeBytes_of_pristine _ hu)).bind
      fun _ w hw => hw.ends_script (releaseSteps_script w.cfg w.arch w.speed)).finish hexec
  | stop => exact (ends_requireInit (script (stopSteps_script s.arch s.speed))).finish hexec
  | sarch x =>
    refine (ends_requireInit fun u hu => ?_).finish hexec
    split
    · exact hu.ends_raise .archSwitchWhileRunning
    · exact script (sarchSteps_script x u.arch u.speed) u hu
  | sspd x => exact (ends_requireInit (script (sspdSteps_script x s.speed s.arch))).finish hexec
  | poll => exact absurd rfl hi

/-- A served host is never denied, and has no share to count. -/
theorem EndsPrecisely.of_served {k : Nat} (h : EndsPrecisely k s t) (hs : HostServed s) :
    Completed s t ∨ ∃ k c, t = (State.waits k s).raise c := by
  rcases h with hdone | ⟨c, share, rfl, hnone⟩ | ⟨hnot, -⟩
  · exact .inl hdone
  · have hshare : (State.waits k s).hostShare = share := by
      rw [hnone hs]
      simpa using hs
    exact .inr ⟨k, c, by rw [setHostShare_of_eq hshare]⟩
  · exact absurd hs hnot

/-- With no other agent to move, no boundary adds an event. -/
theorem undisturbed_noMoves {Q : Event → Prop} (hQ : ∀ e, hostEvent e = true → Q e) :
    Undisturbed NoMoves Q where
  others u := by
    obtain ⟨ev, hhist, -⟩ := u.others_hist
    refine ⟨⟨ev, hhist, fun hu => ?_⟩, fun hu => by rwa [State.others_of_noMoves hu]⟩
    rw [State.others_of_noMoves hu] at hhist
    have hnil : ev = [] := by simpa using hhist.symm
    simp [hnil]
  stands u v hsched hend _ hu := ⟨hsched.trans hu.1, hend.trans hu.2⟩
  host := hQ

/-- Settles O12: a raise comes before every other effect, a script raises nothing, and of these commands'
micro-steps only INIT's drive INT. -/
theorem commandCompletesOrFaultsPrecisely : Obligations.CommandCompletesOrFaultsPrecisely := by
  intro i s hi
  obtain ⟨t, hexec⟩ := exec_next i s
  have hends := exec_endsPrecisely hi hexec
  obtain ⟨ev, hhist, hquiet⟩ : Adds NoMoves (fun e => i ≠ .init → ∀ v, e ≠ .line .int v) s t :=
    exec_adds (undisturbed_noMoves (by rintro e he - v rfl; cases he)) (by tauto) hexec
  refine ⟨t, hexec, hends, fun hs => ?served, ev, hhist, fun hs hinit v hmem => ?quiet⟩
  case served =>
    obtain ⟨k, hk⟩ := hends
    exact hk.of_served hs
  case quiet => exact hquiet hs _ hmem hinit v rfl

end

end Sys2Proof.Safety
end

section
namespace Sys2Proof.Machine

open Sys2Proof.Safety

/-! ### The fault register (60_exceptions R341) -/

theorem State.raise_of_no_fault {s : State} (c : FaultCode) (h : s.fault = none) :
    s.raise c = { s with fault := some c, hist := s.hist ++ [.fault c] } := by
  unfold State.raise
  rw [h]
  rfl

theorem State.raise_of_fault {s : State} {d : FaultCode} (c : FaultCode) (h : s.fault = some d) :
    s.raise c = s := by
  unfold State.raise
  rw [h]

/-- With FAULT set a step is the other agents' moves. -/
theorem step_of_fault {s t : State} {c : FaultCode} (hc : s.fault = some c)
    (h : step s = .next t) : t = s.others := by
  rcases step_cases h with ⟨-, ht⟩ | ⟨⟨hnone, -⟩, -⟩
  · exact ht
  · rw [hc] at hnone; cases hnone

/-! ### The INITIALISED check (60_exceptions R344, R345) -/

theorem State.turn_of_not_denied {s : State} (hd : ¬ HostDenied s) :
    s.turn = .ok () s.others.spend := by
  rcases s.turn_cases with ⟨hdenied, -⟩ | ⟨-, ht⟩
  · exact absurd hdenied hd
  · exact ht

theorem State.requireInit_of_not_initialised {s : State} (hd : ¬ HostDenied s)
    (hinit : s.initialised = false) :
    s.requireInit = .stop (s.others.spend.raise .notInitialised) := by
  simp [State.requireInit, State.turn_of_not_denied hd, hinit]

/-- Every command but INIT and POLL is the INITIALISED check and a body. -/
theorem exec_eq_requireInit_bind {i : Instr} (hi : i ≠ .init) (hp : i ≠ .poll) :
    ∃ body : State → Result Unit,
      ∀ s, exec i s = (s.requireInit.bind fun _ u => body u).finish := by
  cases i with
  | init => exact absurd rfl hi
  | poll => exact absurd rfl hp
  | _ => exact ⟨_, fun _ => rfl⟩

theorem exec_of_not_initialised {i : Instr} {s : State} (hi : i ≠ .init)
    (hphase : i = .poll → s.arbPhase = .idle) (hd : ¬ HostDenied s) (hinit : s.initialised = false) :
    exec i s = .next (s.others.spend.raise .notInitialised) := by
  have hcheck := State.requireInit_of_not_initialised hd hinit
  by_cases hp : i = .poll
  · subst hp
    change execPoll s = _
    simp [execPoll, hphase rfl, hcheck]
  · obtain ⟨body, hbody⟩ := exec_eq_requireInit_bind hi hp
    rw [hbody, hcheck, Result.bind_stop, Result.finish_stop]

theorem exec_init_of_initialised {s : State} (hd : ¬ HostDenied s) (hinit : s.initialised = true) :
    exec .init s = .next (s.others.spend.raise .reinit) := by
  change (s.turn.bind fun _ u => if u.initialised then _ else _).finish = _
  rw [State.turn_of_not_denied hd, Result.bind_ok, if_pos (by simpa using hinit)]
  rfl

/-! ### The moves of the tick and of the doorbell (60_exceptions R361, R365 to R367) -/

@[simp] theorem State.enabled_tick (s : State) : s.enabled .tick = (s.tickArmed && s.ie) := rfl

@[simp] theorem State.enabled_doorbellDeliver (s : State) :
    s.enabled .doorbellDeliver = (s.dbPending && s.ie) := rfl

theorem State.tickHandler_eq (s : State) : s.tickHandler = { s with
    int := false,
    hist := s.hist ++ [.tickFire, .line .int true, .line .int false, .intPulse .tick] } := by
  simp [State.tickHandler, State.drive, State.setLine, State.emit]

/-- The edge before it is latched, masked or ignored. -/
def State.dbellChanged (v : Bool) (s : State) : State := (s.setDbell v).emit (.dbEdge v)

theorem State.dbellEdge_eq (v : Bool) (s : State) : s.dbellEdge v =
    if s.doorbellIe then
      if s.ie then (s.dbellChanged v).setFlag .doorbellLatch true else (s.dbellChanged v).maskedEdge
    else s.dbellChanged v := rfl

/-- With the port, a change of DBELL is a step of the card. -/
theorem State.move_cardDbell {s : State} {v : Bool} (hport : s.cfg.hasExpansion = true)
    (hdbell : s.dbell ≠ v) : s.move (.cardDbell v) = s.dbellEdge v :=
  State.move_of_enabled (by simp [hport, hdbell])

theorem State.maskedEdge_of_lost {s : State} (h : s.cfg.maskedEdge = .lost) : s.maskedEdge = s := by
  rw [State.maskedEdge, h]

theorem State.maskedEdge_of_deferred {s : State} (h : s.cfg.maskedEdge = .deferred) :
    s.maskedEdge = { s with dbPending := true } := by
  rw [State.maskedEdge, h]
  rfl

/-- A masked edge under Either uses up a draw and may leave the edge pending. -/
theorem State.maskedEdge_of_either {s : State} (h : s.cfg.maskedEdge = .either) :
    ∃ p d, s.maskedEdge = { s with dbPending := p, edgeDraws := d } ∧
      (p = true ∨ p = s.dbPending) := by
  rw [State.maskedEdge, h]
  cases Config.freeEdge s.edgeDraws with
  | true => exact ⟨true, s.edgeDraws + 1, rfl, .inl rfl⟩
  | false => exact ⟨s.dbPending, s.edgeDraws + 1, rfl, .inr rfl⟩

end Sys2Proof.Machine

namespace Sys2Proof.Safety

open Sys2Proof.Machine

/-- Settles O60: no move of another agent writes a field the host owns, and while the bus is free neither
the guest nor the card is on it. -/
theorem otherAgentsKeepHostState : Obligations.OtherAgentsKeepHostState := by
  intro s
  refine ⟨?operands, ?results, ?modes, ?arbiter, ?run, ?lines, ?settings, ?link, s.others_cpos,
    s.others_fault, s.others_hostLog, fun hfree => State.others_memAt_of_busFree hfree⟩
  case operands => simp [KeepsOperands, HostServed]
  case results => simp [KeepsResults, KeepsString]
  case modes => simp [KeepsModes]
  case arbiter => simp [KeepsArbiter]
  case run => simp [KeepsRun]
  case lines => simp [KeepsLines]
  case settings => simp [KeepsSettings]
  case link => simp [KeepsLink]

/-- Settles O10: the two branches of `raise`, and a step with FAULT set, which only the others take. -/
theorem faultIsRaisedOnceAndStopsTheHost : Obligations.FaultIsRaisedOnceAndStopsTheHost := by
  refine ⟨fun _ => State.raise_of_no_fault, fun _ c _ => State.raise_of_fault c,
    fun s t c hc hstep => ?_⟩
  obtain rfl := step_of_fault hc hstep
  exact ⟨rfl, s.others_fault.trans hc, s.others_cpos⟩

/-- Settles O13: the first turn of every command is its check. -/
theorem initialisationIsCheckedFirst : Obligations.InitialisationIsCheckedFirst :=
  ⟨fun _ _ => exec_of_not_initialised, fun _ => exec_init_of_initialised,
    fun s hs => State.spend_of_served (s.others_hostShare.trans hs)⟩

/-- Settles O58: the branches of the edge, by DOORBELL_IE, IE and MASKED_EDGE, and the delivery. -/
theorem doorbellEdgeIsLatchedMaskedOrIgnored : Obligations.DoorbellEdgeIsLatchedMaskedOrIgnored := by
  refine ⟨fun s v hport hdbell => ?edge,
    fun s => ⟨fun hpend hie => ?delivered, fun hoff => ?noDelivery⟩⟩
  case edge =>
    rw [State.move_cardDbell hport hdbell, State.dbellEdge_eq]
    refine ⟨fun hdb hie => ?latched, fun hdb hie hlost => ?lost, fun hdb hie hdefer => ?deferred,
      fun hdb hie heither => ?either, fun hdb => ?ignored⟩
    case latched => rw [if_pos hdb, if_pos hie]; rfl
    case ignored => rw [if_neg (by simp [hdb])]; rfl
    all_goals rw [if_pos hdb, if_neg (by simp [hie])]
    case lost => exact State.maskedEdge_of_lost hlost
    case deferred => exact State.maskedEdge_of_deferred hdefer
    case either =>
      obtain ⟨p, d, hedge, hp⟩ := State.maskedEdge_of_either (s := s.dbellChanged v) heither
      rw [hedge]
      exact ⟨rfl, rfl, rfl, hp, rfl⟩
  case delivered => exact State.move_of_enabled (by simp [hpend, hie])
  case noDelivery => exact State.move_of_not_enabled (Bool.and_eq_false_iff.2 hoff)

/-- Settles O57: the tick's handler where it is enabled. -/
theorem tickPulsesInt : Obligations.TickPulsesInt := by
  refine fun s => ⟨fun harmed hie => ?fires, fun hoff => ?masked⟩
  case fires => exact (State.move_of_enabled (by simp [harmed, hie])).trans s.tickHandler_eq
  case masked => exact State.move_of_not_enabled (Bool.and_eq_false_iff.2 hoff)

end Sys2Proof.Safety
end
